-- ==== Sys2Proof/Word.lean ====
section
/-! DEFINITION. The bit-vector types of the display-encoder (spec/00_scope.md R6, R9).
Bit 0 is the least significant bit; every value is unsigned. -/

namespace Sys2Proof

/-- A cell pattern, a stencil or LUT entry, an image byte, a brightness operand (R6, R9). -/
abbrev Byte := BitVec 8

/-- A four-bit field of a command word (R71), or an accepted brightness level (R26). -/
abbrev Nibble := BitVec 4

/-- A word of the command port: a header or a payload word (R70). -/
abbrev Word := BitVec 32

/-- A column `x` or a row `y` of the grid, 0 to 5 (R21). -/
abbrev Coord := Fin 6

/-- 36 bytes in serial order, one for each cell (R51). -/
abbrev GridBytes := Vector Byte 36

/-- The 16 bytes of one unit's image, `img[0]` first (R53). -/
abbrev Image := Vector Byte 16

end Sys2Proof
end

