-- ==== Sys2Proof/Config.lean ====
section
/-! DEFINITION. The implementation parameters (spec/00_scope.md R7, R8).
They are constants and no part of the state (10_state.md R31, R32). Contents that the spec leaves OPEN are opaque
constants: nothing can be proved of their values. -/

namespace Sys2Proof

/-- `ROW1_SLOT_BASE`: the first digit slot of a unit's second row, 6 or 8 (R7, 44_encoder.md R201). -/
inductive SlotBase where
  | six
  | eight
  deriving DecidableEq, Repr

/-- The number that a `ROW1_SLOT_BASE` value stands for. -/
def SlotBase.toNat : SlotBase → Nat
  | .six => 6
  | .eight => 8

/-- `GRID_RESET`: what the grid holds after reset (R7, 10_state.md R22). -/
inductive GridReset where
  | undef
  | zero
  deriving DecidableEq, Repr

/-- A unit's bus address: an opaque value that is only compared for equality (20_memory.md R54; log 10). -/
structure UnitAddr where
  id : Nat
  deriving DecidableEq, Repr, Inhabited

/-- A well-formed configuration (R8): the table sizes and the ranges of the entries are in the types.
`rom` is `STENCIL_ROM` in its flat layout, entry `(p, x, y)` at `36p + 6y + x` (20_memory.md R52). -/
structure Config where
  rom : Vector Byte 288
  nst : Vector Byte 16
  unitAddr : Vector UnitAddr 3
  slotBase : SlotBase
  gridReset : GridReset
  deriving DecidableEq, Repr

/-- The device's stencil ROM: OPEN (92_eei_decisions.md D11; log 9). -/
opaque Config.stencilRom : Vector Byte 288

/-- The device's segment-pattern LUT: OPEN (92_eei_decisions.md D10; log 9). -/
opaque Config.numberSegments : Vector Byte 16

/-- The device's unit addresses: OPEN (92_eei_decisions.md D12; log 9). -/
opaque Config.unitAddresses : Vector UnitAddr 3

/-- The device: the OPEN parameters are opaque; `ROW1_SLOT_BASE` and `GRID_RESET` have the values the spec decides
on (D4, 90_conflicts.md C1; D16; log 7, 8). `Machine.stepWith` is the machine of any other configuration. -/
def Config.device : Config where
  rom := Config.stencilRom
  nst := Config.numberSegments
  unitAddr := Config.unitAddresses
  slotBase := .six
  gridReset := .undef

/-- A configuration as it is given to the block, before any check: `STENCIL_ROM[p][y][x]` and the other tables as
lists of numbers (R7). -/
structure RawConfig where
  stencilRom : List (List (List Nat))
  nst : List Nat
  unitAddr : List UnitAddr
  row1SlotBase : Nat
  gridReset : GridReset
  deriving DecidableEq, Repr

/-- Why a configuration is ill-formed: one name for each clause of R8. -/
inductive ConfigError where
  /-- `STENCIL_ROM` has not exactly 8 × 6 × 6 entries. -/
  | stencilSize
  /-- `NST` has not exactly 16 entries. -/
  | nstSize
  /-- an entry of a table is above 255. -/
  | entryRange
  /-- `UNIT_ADDR` has not exactly 3 entries. -/
  | unitCount
  /-- `ROW1_SLOT_BASE` is neither 6 nor 8. -/
  | slotBase
  deriving DecidableEq, Repr

end Sys2Proof
end

