-- ==== Sys2Proof/Machine/State.lean ====
section
/-! DEFINITION. The state of the display-encoder (spec/10_state.md), the reasons a step can stop, and the state after
reset (R35). -/

namespace Sys2Proof.Machine

open Sys2Proof

/-- The value of `FAULT_CAUSE` (60_exceptions.md R230). The reserved code 6 is never written and has no constructor
(93_implementation_defined.md I13; log 11). -/
inductive FaultCause where
  /-- code 0: not faulted. -/
  | none
  /-- code 1: reserved opcode or a must-be-zero bit set (R231). -/
  | illegalCommand
  /-- code 2: a mutator while `INIT = 0` (R234). -/
  | notInitialized
  /-- code 3: INIT while `INIT = 1` (R235). -/
  | alreadyInitialized
  /-- code 4: a cell command with `x ≥ 6` or `y ≥ 6` (R232). -/
  | coordRange
  /-- code 5: a read of a cell whose tag is 0 (R233). -/
  | undefinedCell
  /-- code 7: defined, never raised by any command (R236). -/
  | digitSlotRange
  deriving DecidableEq, Repr

/-- One record of the output trace (10_state.md R33). -/
inductive Record where
  /-- `Bus.Init()`. -/
  | busInit
  /-- `Bus.Brightness(addr, level)`. -/
  | busBrightness (addr : UnitAddr) (level : Nibble)
  /-- `Bus.Display(addr, img[0..15])`. -/
  | busDisplay (addr : UnitAddr) (img : Image)
  /-- `Resp(b[0..35])`. -/
  | resp (bytes : GridBytes)
  /-- `Log.BrightnessRejected(level)`. -/
  | logBrightnessRejected (level : Byte)
  deriving DecidableEq, Repr

/-- The state of the block (R20), its position in the command stream (R28), its output trace (R33), and its two
inputs from outside. -/
structure State where
  /-- `G`: 36 cells, `G[y][x]` at serial index `6y + x` (R21, 20_memory.md R51). -/
  cells : GridBytes
  /-- `DEF`: the definedness tags, at the same indices (R22). -/
  defined : Vector Bool 36
  /-- `INIT` (R24). -/
  init : Bool
  /-- `BRIGHT` (R26). -/
  bright : Nibble
  /-- `BRIGHT_DEF` (R26). -/
  brightDef : Bool
  /-- `FAULT_CAUSE` (R25). -/
  faultCause : FaultCause
  /-- `PEND_ACTIVE` (R27). -/
  pendActive : Bool
  /-- `PEND_COUNT`, 0 to 8 (R27, R30; log 12). -/
  pendCount : Fin 9
  /-- `PEND_WORDS[0..8]` (R27). -/
  pendWords : Vector Word 9
  /-- `pc`: the index in `stream` of the next word the block will take (R28). -/
  pc : Nat
  /-- The output trace, oldest record first (R33; log 13). -/
  trace : List Record
  /-- The model's own field: the words the hosts have written to the command port (R28, D1; log 1). -/
  stream : List Word
  /-- The model's own field: the reset input. `some ws` when reset is asserted, with `ws` the command stream on the
  port from then on (70_reset_and_hazards.md R270; log 2). -/
  resetIn : Option (List Word)
  deriving DecidableEq, Repr

/-- Why the block has no step. None is an error of the model: each is an end of a run that the spec names, and each is
safe (the model stops; the spec's block does nothing either). -/
inductive Fault where
  /-- The block is faulted with this cause and takes no word until reset (60_exceptions.md R241,
  93_implementation_defined.md I16). Raised by `step` on a faulted state. Safe. -/
  | halted (cause : FaultCause)
  /-- Every word of the stream has been taken, outside a payload: the run is Final (70_reset_and_hazards.md R276).
  Raised by `step`. Safe: `State.hostWrite` goes on. -/
  | runComplete
  /-- Every word has been taken inside a SETALL payload: the run is Incomplete (R276, I17). Raised by `step`. Safe. -/
  | runIncomplete
  deriving DecidableEq, Repr

/-- Why the model refuses. -/
inductive Refusal where
  /-- Raised by no arm of `exec`: every command has its meaning. Safe. -/
  | notModelled (mnemonic : String)
  /-- The configuration is ill-formed and never run (00_scope.md R8, I18). Raised by `stepRaw` only, never by `step`,
  whose configuration is well-formed by its type. Safe. -/
  | illFormedConfig (e : ConfigError)
  deriving DecidableEq, Repr

/-- The state after reset under a value of `GRID_RESET` (R35). The spec leaves the cells under UNDEF, `BRIGHT` and
`PEND_WORDS` unspecified: zero is the model's choice (log 4, 5, 6). Nothing is on the port (log 1). -/
def State.resetWith (g : GridReset) : State where
  cells := Vector.replicate 36 0#8
  defined := Vector.replicate 36 (match g with | .undef => false | .zero => true)
  init := false
  bright := 0#4
  brightDef := false
  faultCause := .none
  pendActive := false
  pendCount := 0
  pendWords := Vector.replicate 9 0#32
  pc := 0
  trace := []
  stream := []
  resetIn := none

/-- The state after reset of the device, whose `GRID_RESET` is UNDEF (R35, D16; log 7). -/
def State.reset : State := State.resetWith Config.device.gridReset

end Sys2Proof.Machine
end

