-- ==== Sys2Proof/Machine/Flags.lean ====
section
/-! DEFINITION. The status bits. The block has no condition codes and no arithmetic flags (spec/10_state.md R29); its
status is `INIT`, `FAULT_CAUSE`, `BRIGHT_DEF` and `PEND_ACTIVE`. -/

namespace Sys2Proof.Machine

open Sys2Proof

/-- The 3-bit code of a fault cause (60_exceptions.md R230). -/
def FaultCause.code : FaultCause → BitVec 3
  | .none => 0#3
  | .illegalCommand => 1#3
  | .notInitialized => 2#3
  | .alreadyInitialized => 3#3
  | .coordRange => 4#3
  | .undefinedCell => 5#3
  | .digitSlotRange => 7#3

/-- The fault status output, 3 bits (10_state.md R25). -/
def State.faultCode (s : State) : BitVec 3 := s.faultCause.code

/-- The block is faulted: `FAULT_CAUSE` is not 0 (R25). -/
def State.faulted (s : State) : Bool := s.faultCode != 0#3

/-- The brightness a claim may rest on: `BRIGHT` when `BRIGHT_DEF` is 1 (R26, 93_implementation_defined.md I2). -/
def State.brightness (s : State) : Option Nibble := if s.brightDef then some s.bright else none

/-- `PEND_COUNT` as the 4-bit register of R30. -/
def State.pendCountBits (s : State) : BitVec 4 := BitVec.ofNat 4 s.pendCount.val

end Sys2Proof.Machine
end

