-- ==== Sys2Proof/Syntax.lean ====
section
/-! DEFINITION. The commands of the display-encoder (spec/30_encoding.md R75): one constructor for each row of
spec/opcode_table.json. The operands are the fields of the header word (R71, R74), so that every term of `Instr` is
encodable; operand values out of the encodable range exist only in assembly text (R80), which is `AsmCommand`. -/

namespace Sys2Proof

/-- One command, as its header word gives it. `x` is the column and `y` the row (00_scope.md R12). -/
inductive Instr where
  /-- INIT: bind the bus (R181). -/
  | init
  /-- SETP: overwrite one cell (R101). -/
  | setp (x y : Nibble) (pat : Byte)
  /-- ORP: set bits of one cell (R102). -/
  | orp (x y : Nibble) (pat : Byte)
  /-- ANDP: clear bits of one cell (R103). -/
  | andp (x y : Nibble) (pat : Byte)
  /-- CLR: every cell to 0x00 (R104). -/
  | clr
  /-- FILL: every cell to 0xFF (R105). -/
  | fill
  /-- REV: complement every cell (R106). -/
  | rev
  /-- SETALL: load the grid from the 9 payload words that follow the header (R131). -/
  | setall
  /-- GETALL: emit the grid as one response (R132). -/
  | getall
  /-- META: overlay a giant numeral, normal mode (R155). -/
  | metaNumber (digit : Nibble)
  /-- METAR: punch a giant numeral out, reverse mode (R156). -/
  | metaReverse (digit : Nibble)
  /-- BRIGHT: set the brightness, or reject the level (R184). -/
  | bright (level : Byte)
  /-- UPDATE: encode the grid and write every unit (R205). -/
  | update
  deriving DecidableEq, Repr

/-- The thirteen legal values of the OP field (R75). -/
inductive Opcode where
  | init | setp | orp | andp | clr | fill | rev | setall | getall | metaNumber | metaReverse | bright | update
  deriving DecidableEq, Repr

/-- One line of assembly: the thirteen commands with numbers of any size as operands (R80), and the four
pseudo-instructions (R81). -/
inductive AsmCommand where
  | init
  | setp (x y pat : Nat)
  | orp (x y pat : Nat)
  | andp (x y pat : Nat)
  | clr
  | fill
  | rev
  | setall (bytes : List Nat)
  | getall
  | metaNumber (digit : Nat)
  | metaReverse (digit : Nat)
  | bright (level : Nat)
  | update
  /-- `CLRP x, y`: blank one cell. -/
  | clrp (x y : Nat)
  /-- `RENDER digit`: CLR, then META. -/
  | render (digit : Nat)
  /-- `RENDERR digit`: FILL, then METAR. -/
  | renderr (digit : Nat)
  /-- `SHOW b0, ..., b35, level`: SETALL, then BRIGHT, then UPDATE. -/
  | display (bytes : List Nat) (level : Nat)
  deriving DecidableEq, Repr

/-- Why a line of assembly is refused (R80). -/
inductive AsmError where
  /-- X or Y above 15. -/
  | coordinate
  /-- A pattern or a payload byte above 255. -/
  | pattern
  /-- A digit above 15. -/
  | digit
  /-- A level above 255. -/
  | level
  /-- A SETALL (or SHOW) with other than 36 byte operands. -/
  | payloadLength
  /-- No such mnemonic. -/
  | mnemonic
  /-- Another number of operands than the mnemonic takes. -/
  | operandCount
  /-- An operand that is no decimal number and no hexadecimal number with `0x`. -/
  | number
  deriving DecidableEq, Repr

end Sys2Proof
end

