-- ==== Sys2Proof/Decode.lean ====
section
/-! DEFINITION. The decoder of header words, total and strict (spec/30_encoding.md R71 to R77), the encoder, and
the byte order of a transport between host and port (20_memory.md R56). -/

namespace Sys2Proof

/-- The OP field, bits [31:28] (R71). -/
def fieldOP (w : Word) : Nibble := w.extractLsb' 28 4
/-- The A field, bits [27:24] (R71). -/
def fieldA (w : Word) : Nibble := w.extractLsb' 24 4
/-- The Y field, bits [23:20] (R71). -/
def fieldY (w : Word) : Nibble := w.extractLsb' 20 4
/-- The X field, bits [19:16] (R71). -/
def fieldX (w : Word) : Nibble := w.extractLsb' 16 4
/-- The P field, bits [7:0] (R71). -/
def fieldP (w : Word) : Byte := w.extractLsb' 0 8

/-- The OP value of each command (R75). -/
def Opcode.value : Opcode → Nibble
  | .init => 0x1#4
  | .setp => 0x2#4
  | .orp => 0x3#4
  | .andp => 0x4#4
  | .clr => 0x5#4
  | .fill => 0x6#4
  | .rev => 0x7#4
  | .setall => 0x8#4
  | .getall => 0x9#4
  | .metaNumber => 0xA#4
  | .metaReverse => 0xB#4
  | .bright => 0xC#4
  | .update => 0xD#4

/-- The command an OP value selects: none for 0x0, 0xE and 0xF (R75). -/
def Opcode.ofValue (op : Nibble) : Option Opcode :=
  match op.toNat with
  | 0x1 => some .init
  | 0x2 => some .setp
  | 0x3 => some .orp
  | 0x4 => some .andp
  | 0x5 => some .clr
  | 0x6 => some .fill
  | 0x7 => some .rev
  | 0x8 => some .setall
  | 0x9 => some .getall
  | 0xA => some .metaNumber
  | 0xB => some .metaReverse
  | 0xC => some .bright
  | 0xD => some .update
  | _ => none

/-- The four formats of R72, by the bits that are fixed (OP and the must-be-zero fields). -/
def Opcode.mask : Opcode → Word
  | .setp | .orp | .andp => 0xFF00FF00#32
  | .metaNumber | .metaReverse => 0xF0FFFFFF#32
  | .bright => 0xFFFFFF00#32
  | .init | .clr | .fill | .rev | .setall | .getall | .update => 0xFFFFFFFF#32

/-- The fixed bits of each command's header (R75). -/
def Opcode.fixedBits : Opcode → Word
  | .init => 0x10000000#32
  | .setp => 0x20000000#32
  | .orp => 0x30000000#32
  | .andp => 0x40000000#32
  | .clr => 0x50000000#32
  | .fill => 0x60000000#32
  | .rev => 0x70000000#32
  | .setall => 0x80000000#32
  | .getall => 0x90000000#32
  | .metaNumber => 0xA0000000#32
  | .metaReverse => 0xB0000000#32
  | .bright => 0xC0000000#32
  | .update => 0xD0000000#32

/-- The command of an opcode with its operands taken from the header word (R74). -/
def Opcode.instr (o : Opcode) (w : Word) : Instr :=
  match o with
  | .init => .init
  | .setp => .setp (fieldX w) (fieldY w) (fieldP w)
  | .orp => .orp (fieldX w) (fieldY w) (fieldP w)
  | .andp => .andp (fieldX w) (fieldY w) (fieldP w)
  | .clr => .clr
  | .fill => .fill
  | .rev => .rev
  | .setall => .setall
  | .getall => .getall
  | .metaNumber => .metaNumber (fieldA w)
  | .metaReverse => .metaReverse (fieldA w)
  | .bright => .bright (fieldP w)
  | .update => .update

/-- Why a header word does not decode. The first two are the illegal encodings of R77, which the block answers with
ILLEGAL_COMMAND (R231); the last two belong to a list of bytes or words that ends too early and never reach the block. -/
inductive DecodeError where
  /-- OP is 0x0, 0xE or 0xF. -/
  | reservedOpcode (op : Nibble)
  /-- A must-be-zero field of the command's format holds a 1. -/
  | mustBeZero (o : Opcode)
  /-- Fewer than four bytes are left. -/
  | truncatedWord
  /-- Fewer payload words are left than the command takes. -/
  | truncatedPayload
  deriving DecidableEq, Repr

/-- Decoding a header word, total on all 2^32 values (R76). Operand ranges are not checked here (R79). -/
def decode (w : Word) : Except DecodeError Instr :=
  match Opcode.ofValue (fieldOP w) with
  | none => .error (.reservedOpcode (fieldOP w))
  | some o => if w &&& o.mask = o.fixedBits then .ok (o.instr w) else .error (.mustBeZero o)

/-- The opcode of a command (R75). -/
def Instr.opcode : Instr → Opcode
  | .init => .init
  | .setp _ _ _ => .setp
  | .orp _ _ _ => .orp
  | .andp _ _ _ => .andp
  | .clr => .clr
  | .fill => .fill
  | .rev => .rev
  | .setall => .setall
  | .getall => .getall
  | .metaNumber _ => .metaNumber
  | .metaReverse _ => .metaReverse
  | .bright _ => .bright
  | .update => .update

/-- A header word from its six fields (R71). -/
def packHeader (op a y x : Nibble) (z p : Byte) : Word := op ++ a ++ y ++ x ++ z ++ p

/-- The header word of a command, in its format (R72). -/
def header : Instr → Word
  | .init => packHeader Opcode.init.value 0#4 0#4 0#4 0#8 0#8
  | .setp x y pat => packHeader Opcode.setp.value 0#4 y x 0#8 pat
  | .orp x y pat => packHeader Opcode.orp.value 0#4 y x 0#8 pat
  | .andp x y pat => packHeader Opcode.andp.value 0#4 y x 0#8 pat
  | .clr => packHeader Opcode.clr.value 0#4 0#4 0#4 0#8 0#8
  | .fill => packHeader Opcode.fill.value 0#4 0#4 0#4 0#8 0#8
  | .rev => packHeader Opcode.rev.value 0#4 0#4 0#4 0#8 0#8
  | .setall => packHeader Opcode.setall.value 0#4 0#4 0#4 0#8 0#8
  | .getall => packHeader Opcode.getall.value 0#4 0#4 0#4 0#8 0#8
  | .metaNumber digit => packHeader Opcode.metaNumber.value digit 0#4 0#4 0#8 0#8
  | .metaReverse digit => packHeader Opcode.metaReverse.value digit 0#4 0#4 0#8 0#8
  | .bright level => packHeader Opcode.bright.value 0#4 0#4 0#4 0#8 level
  | .update => packHeader Opcode.update.value 0#4 0#4 0#4 0#8 0#8

/-- How many payload words follow the header: 9 for SETALL, none for any other command (R70, R78). -/
def Instr.payloadLength : Instr → Nat
  | .setall => 9
  | .init | .setp _ _ _ | .orp _ _ _ | .andp _ _ _ | .clr | .fill | .rev | .getall
  | .metaNumber _ | .metaReverse _ | .bright _ | .update => 0

/-- The words of a command: its header. The payload words of a SETALL are data and follow it (R73, R131). -/
def encode (i : Instr) : List Word := [header i]

/-- A word as a byte transport sends it, most significant byte first (20_memory.md R56). -/
def wordBytes (w : Word) : List Byte :=
  [w.extractLsb' 24 8, w.extractLsb' 16 8, w.extractLsb' 8 8, w.extractLsb' 0 8]

/-- The word of four bytes, the first one the most significant (R56). -/
def wordOfBytes (b3 b2 b1 b0 : Byte) : Word := b3 ++ b2 ++ b1 ++ b0

/-- The words that a byte transport delivers; refused when the bytes end inside a word (R56). -/
def wordsOfBytes : List Byte → Except DecodeError (List Word)
  | [] => .ok []
  | b3 :: b2 :: b1 :: b0 :: rest => (wordsOfBytes rest).map (wordOfBytes b3 b2 b1 b0 :: ·)
  | [_] | [_, _] | [_, _, _] => .error .truncatedWord

/-- The command that the next four bytes of a transport hold, and the bytes after it (R56, R76). -/
def decodeBytes : List Byte → Except DecodeError (Instr × List Byte)
  | b3 :: b2 :: b1 :: b0 :: rest => (decode (wordOfBytes b3 b2 b1 b0)).map (·, rest)
  | [] | [_] | [_, _] | [_, _, _] => .error .truncatedWord

/-- The words of an instruction of the opcode table whose bits are `w`, the first word in bits 31..0: ten words, the
longest command (R70), with every bit from `nbits` on zero. -/
def tableWords (nbits w : Nat) : List Word :=
  (List.range 10).map fun j => BitVec.ofNat 32 ((w >>> (32 * j)) % 2 ^ min 32 (nbits - 32 * j))

/-- The command the decoder reads from an instruction of the opcode table whose bits are `w`. The port takes whole
words (R56), so that the words need no byte order. -/
def decodeTableWord (nbits w : Nat) : Option Instr :=
  match tableWords nbits w with
  | [] => none
  | h :: _ => (decode h).toOption

end Sys2Proof
end

