-- ==== Sys2Proof/Machine/Operands.lean ====
section
/-! DEFINITION. Operand forms: coordinates, digits, levels, the grid's serial order, the bytes of payload words, and
the two tables as the pseudocode reads them (spec/00_scope.md R11, 30_encoding.md R73, R74). -/

namespace Sys2Proof.Machine

open Sys2Proof

/-- The serial index `6y + x` of a cell (20_memory.md R51). -/
def cellIx (y x : Coord) : Fin 36 := ⟨6 * y.val + x.val, by omega⟩

/-- The row `i div 6` of serial index `i` (R51). -/
def rowOf (i : Fin 36) : Coord := ⟨i.val / 6, by omega⟩

/-- The column `i mod 6` of serial index `i` (R51). -/
def colOf (i : Fin 36) : Coord := ⟨i.val % 6, by omega⟩

/-- A coordinate field: 0 to 5 is legal, 6 to 15 is out of range (30_encoding.md R74, R79). -/
def coord? (v : Nibble) : Option Coord :=
  if h : v.toNat < 6 then some ⟨v.toNat, h⟩ else none

/-- The cell `(x, y)` that a cell command names, or none when either coordinate is out of range
(60_exceptions.md R232). -/
def cellOf (x y : Nibble) : Option (Coord × Coord) :=
  match coord? x, coord? y with
  | some cx, some cy => some (cy, cx)
  | _, _ => none

/-- The digit operand: every value 0 to 15 is legal (42_meta_render.md R154). -/
def digitIx (digit : Nibble) : Fin 16 := ⟨digit.toNat, by omega⟩

/-- A brightness level is legal below 16 (43_control.md R184). -/
def levelLegal (level : Byte) : Bool := level.toNat < 16

/-- `level[3:0]` (R184). -/
def levelBits (level : Byte) : Nibble := level.extractLsb' 0 4

/-- The stencil entry of plane `p` for cell `(x, y)`: `StencilRead(p, x, y)` (R11, 20_memory.md R52). -/
def stencilEntry (c : Config) (p : Fin 8) (x y : Coord) : Byte :=
  c.rom[36 * p.val + 6 * y.val + x.val]

/-- `LutRead(i)` (R11). -/
def lutEntry (c : Config) (i : Fin 16) : Byte := c.nst[i]

/-- `UNIT_ADDR[u]` (R54). -/
def unitAddress (c : Config) (u : Fin 3) : UnitAddr := c.unitAddr[u]

/-- Bit `7 - p` of a pattern or of a LUT entry: segment `p`, a = 0 to * = 7 (00_scope.md R10). -/
def segmentBit (v : Byte) (p : Fin 8) : Bool := v.getLsbD (7 - p.val)

/-- Serial byte `i` of nine payload words: bits `[31 - 8(i mod 4) : 24 - 8(i mod 4)]` of word `i div 4`
(20_memory.md R55, 30_encoding.md R73). -/
def payloadByte (ws : Vector Word 9) (i : Fin 36) : Byte :=
  (ws[i.val / 4]'(by omega)).extractLsb' (24 - 8 * (i.val % 4)) 8

/-- The 36 bytes of a payload in serial order (R73). -/
def unpackPayload (ws : Vector Word 9) : GridBytes := Vector.ofFn (payloadByte ws)

/-- Word `j` of 36 bytes: serial bytes `4j` to `4j + 3`, most significant first (R55, R73). -/
def packWord (b : GridBytes) (j : Fin 9) : Word :=
  wordOfBytes (b[4 * j.val]'(by omega)) (b[4 * j.val + 1]'(by omega)) (b[4 * j.val + 2]'(by omega))
    (b[4 * j.val + 3]'(by omega))

/-- 36 bytes as nine words, the packing of a payload and of a response carried as words (R55). -/
def packPayload (b : GridBytes) : Vector Word 9 := Vector.ofFn (packWord b)

end Sys2Proof.Machine
end

