-- ==== Sys2Proof/Machine/Ops.lean ====
section
/-! DEFINITION. The named operations over the state: reads and writes of the grid, the output trace, the position in
the command stream, and taking a fault (spec/00_scope.md R11). -/

namespace Sys2Proof.Machine

open Sys2Proof

/-- Three outcomes of a step of this machine. -/
abbrev Result := Host.Outcome State Fault Refusal

/-- TAKING A FAULT, `raise Fault(cause)`: `FAULT_CAUSE` is written and nothing else changes; `pc` stays at the header
word of the faulting command (60_exceptions.md R239, R240). There is no return from a fault: only reset ends it
(R242, `State.afterReset`). -/
def State.raise (s : State) (cause : FaultCause) : State := { s with faultCause := cause }

/-- LEAVING THE FAULTED STATE: reset, the only way out of it (R242). Every piece of state takes its reset value, and
the stream on the port from then on is the one presented with the reset input (70_reset_and_hazards.md R270). -/
def State.afterReset (resetState : State) (presented : List Word) : State :=
  { resetState with stream := presented }

/-- `pc <- pc + 1`: every header and every payload word is one word (10_state.md R28). -/
def State.advance (s : State) : State := { s with pc := s.pc + 1 }

/-- `emit` of records, in order (00_scope.md R11, 10_state.md R33). -/
def State.emit (s : State) (rs : List Record) : State := { s with trace := s.trace ++ rs }

/-- The value of `G[y][x]`, whatever its tag (R11). -/
def State.cell (s : State) (y x : Coord) : Byte := s.cells[cellIx y x]

/-- `DEF[y][x]` (10_state.md R22). -/
def State.isDefined (s : State) (y x : Coord) : Bool := s.defined[cellIx y x]

/-- Every cell has its tag at 1: the check of a whole-grid read (R22, D30). -/
abbrev State.AllDefined (s : State) : Prop := ∀ i : Fin 36, s.defined[i] = true

/-- `G[y][x] <- v`, which sets the tag (R11). -/
def State.setCell (s : State) (y x : Coord) (v : Byte) : State :=
  { s with
    cells := s.cells.set (cellIx y x).val v
    defined := s.defined.set (cellIx y x).val true }

/-- All 36 cells written at once, `f y x` in cell `G[y][x]`, which sets every tag (R22). -/
def State.setGrid (s : State) (f : Coord → Coord → Byte) : State :=
  { s with
    cells := Vector.ofFn fun i => f (rowOf i) (colOf i)
    defined := Vector.replicate 36 true }

/-- `GridByte(i)` for `i` in 0..35: the grid in serial order (R11, 20_memory.md R51). -/
def State.gridBytes (s : State) : GridBytes := Vector.ofFn fun i => s.cell (rowOf i) (colOf i)

/-- The initialisation check that comes before every other check of a mutator (40_buffer_ops.md R100,
60_exceptions.md R234). `k` is the state the command goes on to. -/
def State.requireInit (s : State) (k : State) : State := if s.init then k else s.raise .notInitialized

/-- The coordinate check of a cell command (R232); `k` goes on with row and column. -/
def State.requireCoord (s : State) (x y : Nibble) (k : Coord → Coord → State) : State :=
  match cellOf x y with
  | some (cy, cx) => k cy cx
  | none => s.raise .coordRange

/-- The check of a read of one cell (R233); `k` goes on with the cell's value. -/
def State.requireCell (s : State) (y x : Coord) (k : Byte → State) : State :=
  if s.isDefined y x then k (s.cell y x) else s.raise .undefinedCell

/-- The check of a read of the whole grid (R233, D30). -/
def State.requireGrid (s : State) (k : State) : State := if s.AllDefined then k else s.raise .undefinedCell

end Sys2Proof.Machine
end

