-- ==== Sys2Proof/Machine/Bulk.lean ====
section
/-! DEFINITION. The whole-grid transfers SETALL and GETALL (spec/41_bulk_transfer.md). -/

namespace Sys2Proof.Machine

open Sys2Proof

/-- SETALL at its header word: the next nine words are its payload (R131, 30_encoding.md R78). -/
def execSetall (s : State) : Result :=
  .next (s.requireInit { s with pendActive := true, pendCount := 0 }.advance)

/-- `PEND_WORDS[PEND_COUNT] <- w` (R131). -/
def State.storePayload (s : State) (w : Word) : State :=
  { s with pendWords := s.pendWords.set s.pendCount.val w }

/-- The ninth payload word has arrived: the 36 cells change together and the payload is done (R131). -/
def State.loadPayload (s : State) : State :=
  { s.setGrid fun y x => payloadByte s.pendWords (cellIx y x) with pendActive := false, pendCount := 0 }

/-- A word taken while `PEND_ACTIVE = 1`: stored and counted, never decoded; it cannot fault (R131, R78). -/
def takePayload (w : Word) (s : State) : State :=
  if h : s.pendCount.val = 8 then ((s.storePayload w).advance).loadPayload
  else { (s.storePayload w).advance with pendCount := ⟨s.pendCount.val + 1, by omega⟩ }

/-- GETALL emits the grid as one response. It does not check `INIT` (R132, D21). -/
def execGetall (s : State) : Result :=
  .next (s.requireGrid (s.emit [.resp s.gridBytes]).advance)

end Sys2Proof.Machine
end

