-- ==== Sys2Proof/Machine/Control.lean ====
section
/-! DEFINITION. Initialisation and brightness, INIT and BRIGHT (spec/43_control.md). -/

namespace Sys2Proof.Machine

open Sys2Proof

/-- INIT binds the bus: `INIT <- 1` and one `Bus.Init()`; a second INIT faults (R181, R182). -/
def execInit (s : State) : Result :=
  .next (if s.init then s.raise .alreadyInitialized
    else ({ s with init := true }.emit [.busInit]).advance)

/-- The three brightness transactions, units 0, 1, 2 in order (R183). -/
def brightnessRecords (c : Config) (level : Nibble) : List Record :=
  (List.finRange 3).map fun u => .busBrightness (unitAddress c u) level

/-- An accepted level: both registers written, one transaction a unit (R184). -/
def State.acceptLevel (c : Config) (level : Nibble) (s : State) : State :=
  { s with bright := level, brightDef := true }.emit (brightnessRecords c level)

/-- BRIGHT `level` in a configuration: a level of 16 or more is logged and ignored, no fault (R184, R185). -/
def brightWith (c : Config) (level : Byte) (s : State) : Result :=
  .next (s.requireInit
    (if levelLegal level then s.acceptLevel c (levelBits level)
      else s.emit [.logBrightnessRejected level]).advance)

/-- BRIGHT `level` on the device (R184). -/
def execBright (level : Byte) (s : State) : Result := brightWith Config.device level s

end Sys2Proof.Machine
end

