-- ==== Sys2Proof/Machine/Encoder.lean ====
section
/-! DEFINITION. The hardware encoder, UPDATE (spec/44_encoder.md). -/

namespace Sys2Proof.Machine

open Sys2Proof

/-- The grid row of unit `u`'s row `r`: `y = 2u + r` (R200). -/
def unitRow (u : Fin 3) (r : Fin 2) : Coord := ⟨2 * u.val + r.val, by omega⟩

/-- The digit slot of column `x` in unit row `r`: `SLOT_BASE(r) + x`, always below 16 (R201, R206). -/
def slotOf (b : SlotBase) (r : Fin 2) (x : Coord) : Fin 16 :=
  ⟨(if r = 0 then 0 else b.toNat) + x.val, by cases b <;> simp only [SlotBase.toNat] <;> split <;> omega⟩

/-- The image byte of plane `p` and slot `d`: `2p + d div 8` (R202). -/
def imageByte (p : Fin 8) (d : Fin 16) : Fin 16 := ⟨2 * p.val + d.val / 8, by omega⟩

/-- The image bit of slot `d`: `d mod 8` (R202). -/
def imageBit (d : Fin 16) : Nat := d.val % 8

/-- `img[k] <- img[k] | (1 << b)` (R205). -/
def setImageBit (img : Image) (k : Fin 16) (b : Nat) : Image :=
  img.set k.val (img[k] ||| (1#8 <<< b))

/-- The body of the innermost loop of R205 for row `r`, column `x`, plane `p` of unit `u`. -/
def scatterSegment (b : SlotBase) (g : GridBytes) (u : Fin 3) (img : Image) (r : Fin 2) (x : Coord) (p : Fin 8) : Image :=
  if segmentBit g[cellIx (unitRow u r) x] p then
    setImageBit img (imageByte p (slotOf b r x)) (imageBit (slotOf b r x))
  else img

/-- The 16-byte image of unit `u`, built as the three loops of R205 build it. -/
def imageOf (b : SlotBase) (g : GridBytes) (u : Fin 3) : Image :=
  (List.finRange 2).foldl (fun img r =>
    (List.finRange 6).foldl (fun img x =>
      (List.finRange 8).foldl (fun img p => scatterSegment b g u img r x p) img) img)
    (Vector.replicate 16 0x00#8)

/-- The multiplexer reading of the mapper: what image bit `b` of byte `k` of unit `u` is (R204). UPDATE does not use it;
its images are stated with it. With `p = k div 2`, `h = k mod 2` and `d = 8h + b`, it is bit `7 - p` of the cell named. -/
def muxBit (base : SlotBase) (g : GridBytes) (u : Fin 3) (k : Fin 16) (b : Fin 8) : Bool :=
  let p : Fin 8 := ⟨k.val / 2, by omega⟩
  let d : Nat := 8 * (k.val % 2) + b.val
  match base with
  | .six =>
    if h : d ≤ 5 then segmentBit g[cellIx (unitRow u 0) ⟨d, by omega⟩] p
    else if h' : d ≤ 11 then segmentBit g[cellIx (unitRow u 1) ⟨d - 6, by omega⟩] p
    else false
  | .eight =>
    if h : b.val ≤ 5 then segmentBit g[cellIx (unitRow u ⟨k.val % 2, by omega⟩) ⟨b.val, by omega⟩] p
    else false

/-- The three display transactions, units 0, 1, 2 in order (R205, D22). -/
def displayRecords (c : Config) (g : GridBytes) : List Record :=
  (List.finRange 3).map fun u => .busDisplay (unitAddress c u) (imageOf c.slotBase g u)

/-- UPDATE in a configuration: it reads the grid and writes no state but the trace (R205). -/
def updateWith (c : Config) (s : State) : Result :=
  .next (s.requireInit (s.requireGrid (s.emit (displayRecords c s.cells)).advance))

/-- UPDATE on the device (R205). -/
def execUpdate (s : State) : Result := updateWith Config.device s

end Sys2Proof.Machine
end

