-- ==== Sys2Proof/Machine/GridPrimitives.lean ====
section
/-! DEFINITION. The six primitive grid commands (spec/40_buffer_ops.md). -/

namespace Sys2Proof.Machine

open Sys2Proof

/-- SETP `x, y, pat` overwrites one cell (R101). -/
def execSetp (x y : Nibble) (pat : Byte) (s : State) : Result :=
  .next (s.requireInit (s.requireCoord x y fun cy cx => (s.setCell cy cx pat).advance))

/-- ORP `x, y, pat` sets the bits of one cell that are 1 in `pat` (R102). -/
def execOrp (x y : Nibble) (pat : Byte) (s : State) : Result :=
  .next (s.requireInit (s.requireCoord x y fun cy cx =>
    s.requireCell cy cx fun v => (s.setCell cy cx (v ||| pat)).advance))

/-- ANDP `x, y, pat` clears the bits of one cell that are 1 in `pat` (R103, 90_conflicts.md C2). -/
def execAndp (x y : Nibble) (pat : Byte) (s : State) : Result :=
  .next (s.requireInit (s.requireCoord x y fun cy cx =>
    s.requireCell cy cx fun v => (s.setCell cy cx (v &&& ~~~pat)).advance))

/-- CLR sets every cell to 0x00 (R104). -/
def execClr (s : State) : Result :=
  .next (s.requireInit (s.setGrid fun _ _ => 0x00#8).advance)

/-- FILL sets every cell to 0xFF (R105). -/
def execFill (s : State) : Result :=
  .next (s.requireInit (s.setGrid fun _ _ => 0xFF#8).advance)

/-- REV complements every cell (R106). -/
def execRev (s : State) : Result :=
  .next (s.requireInit (s.requireGrid (s.setGrid fun y x => ~~~s.cell y x).advance))

end Sys2Proof.Machine
end

