-- ==== Sys2Proof/Machine/MetaNumber.lean ====
section
/-! DEFINITION. Meta-number rendering, META and METAR (spec/42_meta_render.md). -/

namespace Sys2Proof.Machine

open Sys2Proof

/-- How one stencil entry acts on one cell: OR in normal mode (R155), AND-complement in reverse mode (R156). -/
inductive RenderMode where
  | normal
  | reverse
  deriving DecidableEq, Repr

/-- One stencil entry applied to one cell (R155, R156). -/
def RenderMode.apply (m : RenderMode) (cell entry : Byte) : Byte :=
  match m with
  | .normal => cell ||| entry
  | .reverse => cell &&& ~~~entry

/-- The plane `p` overlaid on a grid (the inner loops of R155, R156). -/
def overlayPlane (c : Config) (m : RenderMode) (p : Fin 8) (g : GridBytes) : GridBytes :=
  Vector.ofFn fun i => m.apply g[i] (stencilEntry c p (colOf i) (rowOf i))

/-- The scan over the planes, segment a first, of those lit in `mask` (R155, R156). -/
def overlayAll (c : Config) (m : RenderMode) (mask : Byte) (g : GridBytes) : GridBytes :=
  (List.finRange 8).foldl (fun g p => if segmentBit mask p then overlayPlane c m p g else g) g

/-- The overlay mask `M(d)` of a cell: the OR of the stencil entries of the lit planes, 0x00 when none is lit (R153).
The commands do not compute it; their results are stated with it. -/
def overlayMask (c : Config) (digit : Nibble) (y x : Coord) : Byte :=
  (List.finRange 8).foldl
    (fun acc p => if segmentBit (lutEntry c (digitIx digit)) p then acc ||| stencilEntry c p x y else acc) 0x00#8

/-- META and METAR up to the mode. The tag check covers all 36 cells whatever the mask (R155). -/
def renderNumber (c : Config) (m : RenderMode) (digit : Nibble) (s : State) : Result :=
  .next (s.requireInit (s.requireGrid
    (s.setGrid fun y x => (overlayAll c m (lutEntry c (digitIx digit)) s.cells)[cellIx y x]).advance))

/-- META `digit` in a configuration (R155). -/
def metaNumberWith (c : Config) (digit : Nibble) (s : State) : Result := renderNumber c .normal digit s

/-- METAR `digit` in a configuration (R156). -/
def metaReverseWith (c : Config) (digit : Nibble) (s : State) : Result := renderNumber c .reverse digit s

/-- META `digit` on the device (R155). -/
def execMetaNumber (digit : Nibble) (s : State) : Result := metaNumberWith Config.device digit s

/-- METAR `digit` on the device (R156). -/
def execMetaReverse (digit : Nibble) (s : State) : Result := metaReverseWith Config.device digit s

end Sys2Proof.Machine
end

