-- ==== Sys2Proof/Machine/Dispatch.lean ====
section
/-! DEFINITION. The meaning of each command (spec/30_encoding.md R75). -/

namespace Sys2Proof.Machine

open Sys2Proof

/-- What a command does once its header has decoded. -/
def exec (i : Instr) (s : State) : Host.Outcome State Fault Refusal :=
  match i with
  | .init => Sys2Proof.Machine.execInit s
  | .setp x y pat => Sys2Proof.Machine.execSetp x y pat s
  | .orp x y pat => Sys2Proof.Machine.execOrp x y pat s
  | .andp x y pat => Sys2Proof.Machine.execAndp x y pat s
  | .clr => Sys2Proof.Machine.execClr s
  | .fill => Sys2Proof.Machine.execFill s
  | .rev => Sys2Proof.Machine.execRev s
  | .setall => Sys2Proof.Machine.execSetall s
  | .getall => Sys2Proof.Machine.execGetall s
  | .metaNumber digit => Sys2Proof.Machine.execMetaNumber digit s
  | .metaReverse digit => Sys2Proof.Machine.execMetaReverse digit s
  | .bright level => Sys2Proof.Machine.execBright level s
  | .update => Sys2Proof.Machine.execUpdate s

end Sys2Proof.Machine
end

