-- ==== Sys2Proof/Machine/Port.lean ====
section
/-! DEFINITION. The command port: what the block does with the next word (spec/60_exceptions.md R238), over the
meaning `run` of a decoded command and the state `resetState` that reset leaves. -/

namespace Sys2Proof.Machine

open Sys2Proof

/-- The next word on the port (10_state.md R28). -/
def State.nextWord (s : State) : Option Word := s.stream[s.pc]?

/-- A header word arrives: a word that does not decode raises ILLEGAL_COMMAND (30_encoding.md R76, R231). -/
def settleHeader (run : Instr → State → Result) (w : Word) (s : State) : Result :=
  match decode w with
  | .ok i => run i s
  | .error _ => .next (s.raise .illegalCommand)

/-- A word arrives at a block that is not faulted: payload or header (R238, 30_encoding.md R78). -/
def settleWord (run : Instr → State → Result) (w : Word) (s : State) : Result :=
  if s.pendActive then .next (takePayload w s) else settleHeader run w s

/-- The end of the stream: the run is Final or Incomplete (70_reset_and_hazards.md R276). -/
def endOfStream (s : State) : Fault := if s.pendActive then .runIncomplete else .runComplete

/-- One step of the block. An asserted reset acts at any time, in a faulted block too (R270); then R238: a faulted
block takes no step (R241), and the next word is settled. -/
def portStep (run : Instr → State → Result) (resetState : State) (s : State) : Result :=
  match s.resetIn with
  | some presented => .next (State.afterReset resetState presented)
  | none =>
    if s.faulted then .fault (.halted s.faultCause)
    else
      match s.nextWord with
      | none => .fault (endOfStream s)
      | some w => settleWord run w s

/-- The state in which the block, neither faulted nor inside a payload nor in reset, has the given words as its next
ones: the stream keeps its other words, and a stream that is too short is filled with zero words. -/
def State.presentWords (s : State) (ws : List Word) : State :=
  { s with
    faultCause := .none
    pendActive := false
    pendCount := 0
    resetIn := none
    stream := s.stream.take s.pc ++ List.replicate (s.pc - s.stream.length) 0#32 ++ ws
      ++ s.stream.drop (s.pc + ws.length) }

end Sys2Proof.Machine
end

