-- ==== Sys2Proof/Machine/Step.lean ====
section
/-! DEFINITION. One step of the device, and the machine of any other configuration (spec/00_scope.md R7, R8). -/

namespace Sys2Proof.Machine

open Sys2Proof

/-- One step of the block (60_exceptions.md R238; 70_reset_and_hazards.md R270). -/
def step (s : State) : Host.Outcome State Fault Refusal := portStep exec State.reset s

/-- `s` with the words of an opcode-table instruction on the port, next to be taken (log 17). -/
def State.withFetchWord (s : State) (nbits w : Nat) : State := s.presentWords (tableWords nbits w)

end Sys2Proof.Machine
end

