-- ==== Sys2Proof/Machine/Hosts.lean ====
section
/-! DEFINITION. The hosts that write the command port (spec/60_exceptions.md R252, 70_reset_and_hazards.md R277): what they
may and must do, the whole commands they write, and the interleaving of two hosts at command granularity. -/

namespace Sys2Proof.Machine

open Sys2Proof

/-- Words added behind those already on the port. -/
def State.appendWords (s : State) (ws : List Word) : State := { s with stream := s.stream ++ ws }

/-- A host writes words to the port: any words, at any time, but there is no such move while the block is being reset
(R277). -/
def State.hostWrite (s : State) (ws : List Word) : Option State :=
  match s.resetIn with
  | none => some (s.appendWords ws)
  | some _ => none

/-- A host asserts reset: it may do so at any time (R277). `presented` is the stream on the port from then on. -/
def State.assertReset (s : State) (presented : List Word) : State := { s with resetIn := some presented }

/-- A whole command as a host writes it: a command and its payload words, nine for SETALL and none for any other
(R252, 30_encoding.md R70). -/
structure HostCommand where
  instr : Instr
  payload : List Word
  deriving DecidableEq, Repr

/-- The payload has the length the command takes: the host duty of R277. -/
def HostCommand.whole (h : HostCommand) : Bool := h.payload.length == h.instr.payloadLength

/-- The SETALL that loads 36 bytes (R73). -/
def HostCommand.load (b : GridBytes) : HostCommand := ⟨.setall, (packPayload b).toList⟩

/-- The words of a command on the port (R70). -/
def HostCommand.words (h : HostCommand) : List Word := header h.instr :: h.payload

/-- The words of a sequence of commands. -/
def hostWords (hs : List HostCommand) : List Word := hs.flatMap HostCommand.words

/-- The whole command at the head of a list of words, and the words after it (30_encoding.md R78). -/
def decodeCommand : List Word → Except DecodeError (HostCommand × List Word)
  | [] => .error .truncatedWord
  | w :: ws =>
    match decode w with
    | .error e => .error e
    | .ok i =>
      if ws.length < i.payloadLength then .error .truncatedPayload
      else .ok (⟨i, ws.take i.payloadLength⟩, ws.drop i.payloadLength)

/-- The two software contexts that write the port (R252). -/
inductive HostAgent where
  | mainLoop
  | receiver
  deriving DecidableEq, Repr

/-- One interleaving of what two hosts write, at the granularity of `α`, by a schedule that says which host is next; a
host that is done leaves the port to the other. Of whole commands it is the interleaving of R252 and
93_implementation_defined.md I8; of whole updates it is what is left of it under a lock (R277). -/
def interleave {α : Type} : List HostAgent → List α → List α → List α
  | _, [], bs => bs
  | _, as, [] => as
  | [], as, bs => as ++ bs
  | .mainLoop :: sched, a :: as, bs => a :: interleave sched as bs
  | .receiver :: sched, as, b :: bs => b :: interleave sched as bs

/-- `Shuffle as bs cs`: `cs` holds the elements of `as` and of `bs`, each in its own order, and nothing else. -/
inductive Shuffle {α : Type} : List α → List α → List α → Prop where
  | done : Shuffle [] [] []
  | takeLeft {a : α} {as bs cs : List α} : Shuffle as bs cs → Shuffle (a :: as) bs (a :: cs)
  | takeRight {b : α} {as bs cs : List α} : Shuffle as bs cs → Shuffle as (b :: bs) (b :: cs)

/-- The commands on the port when both hosts hold the lock around each multi-command update: no other command stands
inside an update (R277). -/
def lockedInterleave (sched : List HostAgent) (mainUpdates receiverUpdates : List (List HostCommand)) :
    List HostCommand := (interleave sched mainUpdates receiverUpdates).flatten

/-- The block with its hosts, word by word: the host inside a command, and how many words that command still lacks. -/
structure SharedPort where
  block : State
  writer : Option HostAgent
  owed : Nat
  deriving DecidableEq, Repr

/-- How many words follow a header word: none after a word that does not decode. -/
def wordsOwed (w : Word) : Nat :=
  match decode w with
  | .ok i => i.payloadLength
  | .error _ => 0

/-- A host writes one word: any word, but no word inside another host's command, and none during reset (R277). -/
def SharedPort.write (p : SharedPort) (host : HostAgent) (w : Word) : Option SharedPort :=
  match p.block.hostWrite [w] with
  | none => none
  | some s =>
    if p.owed = 0 then some ⟨s, some host, wordsOwed w⟩
    else if p.writer = some host then some ⟨s, some host, p.owed - 1⟩
    else none

/-- A host writes words one after another. -/
def SharedPort.writeWords (p : SharedPort) (host : HostAgent) : List Word → Option SharedPort
  | [] => some p
  | w :: ws =>
    match p.write host w with
    | some q => q.writeWords host ws
    | none => none

/-- A host asserts reset, at any time; the port is empty after it and the next word is a header (R271, R277). -/
def SharedPort.assertReset (p : SharedPort) : SharedPort := ⟨p.block.assertReset [], none, 0⟩

/-- The grid bytes of a 64-byte wire frame, its bytes 8 to 43 (41_bulk_transfer.md R134). The rest of the frame is the
codec's and out of scope (00_scope.md R5). -/
def framePattern (frame : Vector Byte 64) : GridBytes := Vector.ofFn fun i => frame[8 + i.val]

/-- What the receive callback takes from a frame that decodes. -/
structure ValidFrame where
  pattern : GridBytes
  level : Byte
  deriving DecidableEq, Repr

/-- The update of the receive callback for a valid frame: SETALL, BRIGHT, UPDATE (R252, R277). -/
def receiverCommands (f : ValidFrame) : List HostCommand :=
  [HostCommand.load f.pattern, ⟨.bright f.level, []⟩, ⟨.update, []⟩]

/-- The updates of the receive callback, which is never re-entered, for the frames it receives: none for a frame that
fails to decode (R277, 60_exceptions.md R237). -/
def receiverUpdates (frames : List (Option ValidFrame)) : List (List HostCommand) :=
  frames.filterMap fun f => f.map receiverCommands

/-- The host duty of R277 on a whole sequence: every command is written whole. -/
def dutyKept (hs : List HostCommand) : Bool := hs.all HostCommand.whole

end Sys2Proof.Machine
end

