-- ==== Sys2Proof/WellFormed.lean ====
section
/-! DEFINITION. The checks on what comes from outside as plain numbers: a configuration (spec/00_scope.md R8) and a
line of assembly (30_encoding.md R80). A term of `Instr` needs no check: its operands are the fields of R71. -/

namespace Sys2Proof

/-- Every entry of a table is in 0..255 (R8). -/
def bytesInRange (l : List Nat) : Bool := l.all (· < 256)

/-- The first clause of R8 that a raw configuration breaks. -/
def RawConfig.firstError (r : RawConfig) : Option ConfigError :=
  if ¬ (r.stencilRom.length = 8 ∧
      r.stencilRom.all (fun plane => plane.length == 6 && plane.all (·.length == 6)) = true) then some .stencilSize
  else if r.nst.length ≠ 16 then some .nstSize
  else if ¬ (bytesInRange r.stencilRom.flatten.flatten = true ∧ bytesInRange r.nst = true) then some .entryRange
  else if r.unitAddr.length ≠ 3 then some .unitCount
  else if r.row1SlotBase ≠ 6 ∧ r.row1SlotBase ≠ 8 then some .slotBase
  else none

/-- The configuration is well-formed (R8). -/
def RawConfig.wellFormed (r : RawConfig) : Bool := r.firstError == none

/-- The configuration a raw one stands for; an ill-formed one is refused outright, by the name of the clause it
breaks (R8). -/
def RawConfig.load (r : RawConfig) : Except ConfigError Config :=
  match r.firstError with
  | some e => .error e
  | none => .ok
      { rom := Vector.ofFn fun i => BitVec.ofNat 8 (r.stencilRom.flatten.flatten.getD i 0)
        nst := Vector.ofFn fun i => BitVec.ofNat 8 (r.nst.getD i 0)
        unitAddr := Vector.ofFn fun u => r.unitAddr.getD u default
        slotBase := if r.row1SlotBase = 6 then .six else .eight
        gridReset := r.gridReset }

/-- The range check of a cell command's operands (R80). -/
def cellOperandsError (x y pat : Nat) : Option AsmError :=
  if 15 < x ∨ 15 < y then some .coordinate else if 255 < pat then some .pattern else none

/-- The check of a 36-byte operand list (R80). -/
def payloadError (bytes : List Nat) : Option AsmError :=
  if bytes.length ≠ 36 then some .payloadLength
  else if bytesInRange bytes then none else some .pattern

/-- The range check of a digit operand (R80). -/
def digitError (digit : Nat) : Option AsmError := if 15 < digit then some .digit else none

/-- The range check of a level operand (R80). -/
def levelError (level : Nat) : Option AsmError := if 255 < level then some .level else none

/-- The first operand of an assembly command that is out of its encodable range (R80). The pseudo-instructions
have the checks of the commands they stand for (R81). -/
def AsmCommand.firstError : AsmCommand → Option AsmError
  | .init | .clr | .fill | .rev | .getall | .update => none
  | .setp x y pat | .orp x y pat | .andp x y pat => cellOperandsError x y pat
  | .clrp x y => cellOperandsError x y 0
  | .setall bytes => payloadError bytes
  | .metaNumber digit | .metaReverse digit | .render digit | .renderr digit => digitError digit
  | .bright level => levelError level
  | .display bytes level => (payloadError bytes).orElse fun _ => levelError level

/-- The assembly command has encodable operands (R80). -/
def AsmCommand.wellFormed (a : AsmCommand) : Bool := a.firstError == none

end Sys2Proof
end

