-- ==== Sys2Proof/Machine/Assembler.lean ====
section
/-! DEFINITION. The assembler: a line of text to an assembly command, and an assembly command to the words it stands
for (spec/30_encoding.md R80, R81). Text is a list of characters. What R80 leaves open about the spelling of a line
is log 18. -/

namespace Sys2Proof.Machine

open Sys2Proof

/-- The payload words of 36 byte operands (R73, R80). -/
def payloadOperands (bytes : List Nat) : GridBytes := Vector.ofFn fun i => BitVec.ofNat 8 (bytes.getD i 0)

/-- A cell command's operands as header fields. -/
def cellCommand (f : Nibble → Nibble → Byte → Instr) (x y pat : Nat) : List HostCommand :=
  [⟨f (BitVec.ofNat 4 x) (BitVec.ofNat 4 y) (BitVec.ofNat 8 pat), []⟩]

/-- The commands an assembly command expands to; a pseudo-instruction gives one to three (R81). The operands are in
range when `AsmCommand.wellFormed` holds. -/
def expandCommand : AsmCommand → List HostCommand
  | .init => [⟨.init, []⟩]
  | .setp x y pat => cellCommand .setp x y pat
  | .orp x y pat => cellCommand .orp x y pat
  | .andp x y pat => cellCommand .andp x y pat
  | .clr => [⟨.clr, []⟩]
  | .fill => [⟨.fill, []⟩]
  | .rev => [⟨.rev, []⟩]
  | .setall bytes => [HostCommand.load (payloadOperands bytes)]
  | .getall => [⟨.getall, []⟩]
  | .metaNumber digit => [⟨.metaNumber (BitVec.ofNat 4 digit), []⟩]
  | .metaReverse digit => [⟨.metaReverse (BitVec.ofNat 4 digit), []⟩]
  | .bright level => [⟨.bright (BitVec.ofNat 8 level), []⟩]
  | .update => [⟨.update, []⟩]
  | .clrp x y => cellCommand .setp x y 0x00
  | .render digit => [⟨.clr, []⟩, ⟨.metaNumber (BitVec.ofNat 4 digit), []⟩]
  | .renderr digit => [⟨.fill, []⟩, ⟨.metaReverse (BitVec.ofNat 4 digit), []⟩]
  | .display bytes level =>
    [HostCommand.load (payloadOperands bytes), ⟨.bright (BitVec.ofNat 8 level), []⟩, ⟨.update, []⟩]

/-- The words of an assembly command; out of range, it is an assembly error and no word is emitted (R80). -/
def assembleCommand (a : AsmCommand) : Except AsmError (List Word) :=
  match a.firstError with
  | some e => .error e
  | none => .ok (hostWords (expandCommand a))

/-- The text of a line before its comment (R80). -/
def stripComment (line : List Char) : List Char := line.takeWhile (· != ';')

/-- A space or a tab (log 18). -/
def isBlank (ch : Char) : Bool := ch == ' ' || ch == '\t'

/-- A text without blanks at either end. -/
def trimBlanks (t : List Char) : List Char := ((t.dropWhile isBlank).reverse.dropWhile isBlank).reverse

/-- The value of a hexadecimal digit, in either letter case (log 18). -/
def digitValue (ch : Char) : Option Nat :=
  let n := ch.toNat
  if 48 ≤ n ∧ n ≤ 57 then some (n - 48)
  else if 65 ≤ n ∧ n ≤ 70 then some (n - 55)
  else if 97 ≤ n ∧ n ≤ 102 then some (n - 87)
  else none

/-- The value of digits in a base, after the value `acc` of the digits before them. -/
def digitsValue (base : Nat) : Nat → List Char → Option Nat
  | acc, [] => some acc
  | acc, ch :: rest =>
    match digitValue ch with
    | some d => if d < base then digitsValue base (acc * base + d) rest else none
    | none => none

/-- A number: decimal, or hexadecimal with `0x` (R80). -/
def parseNumber : List Char → Option Nat
  | [] => none
  | '0' :: 'x' :: ch :: rest => digitsValue 16 0 (ch :: rest)
  | ch :: rest => digitsValue 10 0 (ch :: rest)

/-- The operands of a line, separated by commas (R80). -/
def splitCommas : List Char → List (List Char)
  | [] => [[]]
  | ch :: rest =>
    if ch == ',' then [] :: splitCommas rest
    else
      match splitCommas rest with
      | [] => [[ch]]
      | t :: ts => (ch :: t) :: ts

/-- Every operand as a number. -/
def parseOperands (t : List Char) : Option (List Nat) :=
  match trimBlanks t with
  | [] => some []
  | t' => (splitCommas t').mapM fun o => parseNumber (trimBlanks o)

/-- What a mnemonic does with its operands. -/
abbrev OperandForm := List Nat → Except AsmError AsmCommand

/-- A mnemonic without operands. -/
def noOperand (a : AsmCommand) : OperandForm
  | [] => .ok a
  | _ => .error .operandCount

/-- A mnemonic with one operand. -/
def oneOperand (f : Nat → AsmCommand) : OperandForm
  | [n] => .ok (f n)
  | _ => .error .operandCount

/-- A mnemonic with two operands. -/
def twoOperands (f : Nat → Nat → AsmCommand) : OperandForm
  | [x, y] => .ok (f x y)
  | _ => .error .operandCount

/-- A mnemonic with three operands. -/
def threeOperands (f : Nat → Nat → Nat → AsmCommand) : OperandForm
  | [x, y, pat] => .ok (f x y pat)
  | _ => .error .operandCount

/-- The operands of SHOW: 36 bytes, then a level (R81). -/
def displayOperands : OperandForm := fun ops =>
  if ops.length = 37 then .ok (.display (ops.take 36) (ops.getD 36 0)) else .error .payloadLength

/-- The mnemonics of R80 and R81 with their operands. -/
def mnemonicTable : List (List Char × OperandForm) :=
  [(['I', 'N', 'I', 'T'], noOperand .init),
   (['S', 'E', 'T', 'P'], threeOperands .setp),
   (['O', 'R', 'P'], threeOperands .orp),
   (['A', 'N', 'D', 'P'], threeOperands .andp),
   (['C', 'L', 'R'], noOperand .clr),
   (['F', 'I', 'L', 'L'], noOperand .fill),
   (['R', 'E', 'V'], noOperand .rev),
   (['S', 'E', 'T', 'A', 'L', 'L'], fun ops => .ok (.setall ops)),
   (['G', 'E', 'T', 'A', 'L', 'L'], noOperand .getall),
   (['M', 'E', 'T', 'A'], oneOperand .metaNumber),
   (['M', 'E', 'T', 'A', 'R'], oneOperand .metaReverse),
   (['B', 'R', 'I', 'G', 'H', 'T'], oneOperand .bright),
   (['U', 'P', 'D', 'A', 'T', 'E'], noOperand .update),
   (['C', 'L', 'R', 'P'], twoOperands .clrp),
   (['R', 'E', 'N', 'D', 'E', 'R'], oneOperand .render),
   (['R', 'E', 'N', 'D', 'E', 'R', 'R'], oneOperand .renderr),
   (['S', 'H', 'O', 'W'], displayOperands)]

/-- The assembly command of a mnemonic and its operands (R80, R81). -/
def buildCommand (mnemonic : List Char) (ops : List Nat) : Except AsmError AsmCommand :=
  match mnemonicTable.lookup mnemonic with
  | some form => form ops
  | none => .error .mnemonic

/-- One line: none when it holds no command (log 18), else the command it spells (R80). -/
def parseLine (line : List Char) : Except AsmError (Option AsmCommand) :=
  match trimBlanks (stripComment line) with
  | [] => .ok none
  | t =>
    match parseOperands (t.dropWhile (! isBlank ·)) with
    | none => .error .number
    | some ops => (buildCommand (t.takeWhile (! isBlank ·)) ops).map some

/-- The words of one line of assembly. -/
def assembleLine (line : List Char) : Except AsmError (List Word) :=
  match parseLine line with
  | .error e => .error e
  | .ok none => .ok []
  | .ok (some a) => assembleCommand a

end Sys2Proof.Machine
end

