-- ==== Sys2Proof/Machine/Configured.lean ====
section
/-! DEFINITION. The block with its configuration as an argument (spec/00_scope.md R7, R8). `step` is `stepWith` at the
device's configuration. -/

namespace Sys2Proof.Machine

open Sys2Proof

/-- The meaning of each command in a configuration (R7). -/
def execWith (c : Config) (i : Instr) (s : State) : Result :=
  match i with
  | .init => execInit s
  | .setp x y pat => execSetp x y pat s
  | .orp x y pat => execOrp x y pat s
  | .andp x y pat => execAndp x y pat s
  | .clr => execClr s
  | .fill => execFill s
  | .rev => execRev s
  | .setall => execSetall s
  | .getall => execGetall s
  | .metaNumber digit => metaNumberWith c digit s
  | .metaReverse digit => metaReverseWith c digit s
  | .bright level => brightWith c level s
  | .update => updateWith c s

/-- One step in a configuration. -/
def stepWith (c : Config) (s : State) : Result := portStep (execWith c) (State.resetWith c.gridReset) s

/-- One step under a configuration given as plain numbers: an ill-formed one is refused and never runs (R8). -/
def stepRaw (r : RawConfig) (s : State) : Result :=
  match r.load with
  | .ok c => stepWith c s
  | .error e => .refused (.illFormedConfig e)

end Sys2Proof.Machine
end

