-- ==== Sys2Proof/Safety.lean ====
section
/-! DEFINITION. The terms that claims about the block use: how a run ends, what it observes, which command has which
preconditions, the invariants, and the parts of the state that the spec leaves unspecified. -/

namespace Sys2Proof.Machine

open Sys2Proof

/-- `k` steps of the device, stopping where there is no step. -/
def runSteps : Nat → State → Result
  | 0, s => .next s
  | k + 1, s =>
    match step s with
    | .next t => runSteps k t
    | .fault r => .fault r
    | .refused r => .refused r

/-- A whole command taken at once, without the port: the meaning of its header and then, unless that faults, its
payload words. -/
def takeCommand (h : HostCommand) (s : State) : Result :=
  match exec h.instr s with
  | .next t => .next (if t.faultCause = .none then h.payload.foldl (fun u w => takePayload w u) t else t)
  | .fault r => .fault r
  | .refused r => .refused r

/-- Whole commands taken one after another, up to the first that faults (20_memory.md R62). -/
def takeCommands : List HostCommand → State → Result
  | [], s => .next s
  | h :: hs, s =>
    match takeCommand h s with
    | .next t => if t.faultCause = .none then takeCommands hs t else .next t
    | .fault r => .fault r
    | .refused r => .refused r

/-- A sequence of commands executed one after the other by `run`, without the port (the laws of 40_buffer_ops.md
R107, 42_meta_render.md R157). -/
def execAll (run : Instr → State → Result) : List Instr → State → Result
  | [], s => .next s
  | i :: is, s =>
    match run i s with
    | .next t => execAll run is t
    | .fault r => .fault r
    | .refused r => .refused r

/-- Two results that are the same state but for `pc`: the `≡` of R107. -/
def sameButPc : Result → Result → Prop
  | .next s, .next t => { s with pc := 0 } = { t with pc := 0 }
  | _, _ => False

/-- `t` is `s` after a one-word command that wrote `v` to the cell in row `y`, column `x`, and nothing else. -/
def State.CellWritten (s t : State) (y x : Coord) (v : Byte) : Prop :=
  t.cell y x = v ∧ t.isDefined y x = true ∧
  (∀ y' x', ¬ (y' = y ∧ x' = x) → t.cell y' x' = s.cell y' x' ∧ t.isDefined y' x' = s.isDefined y' x') ∧
  t = { s with cells := t.cells, defined := t.defined, pc := s.pc + 1 }

/-- `t` is `s` after a one-word command that wrote `f y x` to every cell, and nothing else. -/
def State.GridWritten (s t : State) (f : Coord → Coord → Byte) : Prop :=
  (∀ y x, t.cell y x = f y x ∧ t.isDefined y x = true) ∧
  t = { s with cells := t.cells, defined := t.defined, pc := s.pc + 1 }

/-- The block takes the next word as a header: not in reset, not faulted, no payload pending (40_buffer_ops.md R100). -/
abbrev State.Ready (s : State) : Prop := s.resetIn = none ∧ s.faultCause = .none ∧ s.pendActive = false

/-- Every word has been taken. -/
abbrev State.Exhausted (s : State) : Prop := s.stream[s.pc]? = none

/-- The run is Final (70_reset_and_hazards.md R276). -/
abbrev State.IsFinal (s : State) : Prop := s.Exhausted ∧ s.pendActive = false ∧ s.faultCause = .none

/-- The run is Faulted (R276). -/
abbrev State.IsFaulted (s : State) : Prop := s.faultCause ≠ .none

/-- The run is Incomplete (R276). -/
abbrev State.IsIncomplete (s : State) : Prop := s.Exhausted ∧ s.pendActive = true ∧ s.faultCause = .none

/-- What a finished run shows (R276): a cell and the brightness count only where they have been written
(93_implementation_defined.md I1, I2). -/
structure Observation where
  trace : List Record
  cells : List (Option Byte)
  init : Bool
  brightness : Option Nibble
  deriving DecidableEq, Repr

/-- The observation of a state (R276). -/
def State.observe (s : State) : Observation where
  trace := s.trace
  cells := (List.finRange 36).map fun i => if s.defined[i] then some s.cells[i] else none
  init := s.init
  brightness := s.brightness

/-- The mutators, which require `INIT = 1` (60_exceptions.md R234). -/
def isMutator : Instr → Bool
  | .init | .getall => false
  | .setp _ _ _ | .orp _ _ _ | .andp _ _ _ | .clr | .fill | .rev | .setall | .metaNumber _ | .metaReverse _
  | .bright _ | .update => true

/-- A cell command names a cell out of the grid (R232). -/
def coordBad : Instr → Bool
  | .setp x y _ | .orp x y _ | .andp x y _ => 6 ≤ x.toNat || 6 ≤ y.toNat
  | .init | .clr | .fill | .rev | .setall | .getall | .metaNumber _ | .metaReverse _ | .bright _ | .update => false

/-- The command reads all 36 cells (10_state.md R22). -/
def readsGrid : Instr → Bool
  | .rev | .getall | .metaNumber _ | .metaReverse _ | .update => true
  | .init | .setp _ _ _ | .orp _ _ _ | .andp _ _ _ | .clr | .fill | .setall | .bright _ => false

/-- The command reads the cell in row `y`, column `x` (R22). -/
def readsCell (i : Instr) (y x : Coord) : Bool :=
  match i with
  | .orp cx cy _ | .andp cx cy _ => cx.toNat == x.val && cy.toNat == y.val
  | .init | .setp _ _ _ | .clr | .fill | .rev | .setall | .getall | .metaNumber _ | .metaReverse _ | .bright _
  | .update => readsGrid i

/-- The command writes grid cells when it does not fault (10_state.md R20). SETALL writes them with its ninth payload
word. -/
def writesGrid : Instr → Bool
  | .setp _ _ _ | .orp _ _ _ | .andp _ _ _ | .clr | .fill | .rev | .metaNumber _ | .metaReverse _ => true
  | .init | .setall | .getall | .bright _ | .update => false

/-- The cause a decoded command raises: the first of priorities 4 to 6 of R238 that applies, or none. -/
def firstCause (i : Instr) (s : State) : FaultCause :=
  if i = .init ∧ s.init = true then .alreadyInitialized
  else if isMutator i = true ∧ s.init = false then .notInitialized
  else if coordBad i = true then .coordRange
  else if ∃ y x : Coord, readsCell i y x = true ∧ s.isDefined y x = false then .undefinedCell
  else .none

/-- The level of the last brightness transaction of a trace. -/
def lastBrightness (tr : List Record) : Option Nibble :=
  tr.reverse.findSome? fun r =>
    match r with
    | .busBrightness _ level => some level
    | .busInit | .busDisplay _ _ | .resp _ | .logBrightnessRejected _ => none

/-- The invariant of the device, whose grid is undefined after reset. -/
structure State.Inv (s : State) : Prop where
  /-- DIGIT_SLOT_RANGE is never raised (44_encoder.md R206). -/
  slot_in_range : s.faultCause ≠ .digitSlotRange
  /-- A payload is pending only on an initialised, unfaulted block (41_bulk_transfer.md R131). -/
  pending_ok : s.pendActive = true → s.init = true ∧ s.faultCause = .none
  /-- Outside a payload, `PEND_COUNT` is 0 (R131). -/
  count_ok : s.pendActive = false → s.pendCount = 0
  /-- Only an initialised block has accepted a level (43_control.md R184). -/
  bright_ok : s.brightDef = true → s.init = true
  /-- Before INIT nothing is defined and nothing has been emitted (60_exceptions.md R234). -/
  uninit_ok : s.init = false → (∀ i : Fin 36, s.defined[i] = false) ∧ s.trace = []
  /-- The block has taken no word that was not written (10_state.md R28). -/
  pc_ok : s.pc ≤ s.stream.length
  /-- Exactly one `Bus.Init()` since reset on an initialised block (R181, R182). -/
  bus_init_once : s.trace.count .busInit = if s.init then 1 else 0
  /-- `BRIGHT` is the level last sent to the units (R183, R184). -/
  bright_sent : lastBrightness s.trace = s.brightness

/-- Two states that differ at most in what the spec leaves unspecified: cells whose tag is 0, `BRIGHT` while
`BRIGHT_DEF = 0`, and payload words not yet received (93_implementation_defined.md I1, I2, I3). -/
structure State.Agree (s t : State) : Prop where
  defined : s.defined = t.defined
  cells : ∀ i : Fin 36, s.defined[i] = true → s.cells[i] = t.cells[i]
  init : s.init = t.init
  brightDef : s.brightDef = t.brightDef
  bright : s.brightDef = true → s.bright = t.bright
  faultCause : s.faultCause = t.faultCause
  pendActive : s.pendActive = t.pendActive
  pendCount : s.pendCount = t.pendCount
  pendWords : s.pendActive = true → ∀ j : Fin 9, j < s.pendCount → s.pendWords[j] = t.pendWords[j]
  pc : s.pc = t.pc
  trace : s.trace = t.trace
  stream : s.stream = t.stream
  resetIn : s.resetIn = t.resetIn

/-- Two steps that end alike: in states that agree, or in the same fault or refusal. -/
def sameOutcome : Result → Result → Prop
  | .next s, .next t => s.Agree t
  | .fault r, .fault r' => r = r'
  | .refused r, .refused r' => r = r'
  | _, _ => False

/-- How many bits of a byte are 1. -/
def bitCount (v : Byte) : Nat := (List.finRange 8).countP fun i => v.getLsbD i.val

/-- How many bits of the 36 cells are 1 (44_encoder.md R207). -/
def gridBitCount (g : GridBytes) : Nat := ((List.finRange 36).map fun i => bitCount g[i]).sum

/-- How many bits of the three images are 1 (R207). -/
def imageBitCount (b : SlotBase) (g : GridBytes) : Nat :=
  ((List.finRange 3).map fun u => ((List.finRange 16).map fun k => bitCount (imageOf b g u)[k]).sum).sum

end Sys2Proof.Machine
end

