-- ==== Sys2Proof/Certificates/Slice0/Obligations.lean ====
section
/-! DEFINITION. The statements for the provers. OBLIGATIONS.json gives each one's rule and quote. -/

open Sys2Proof Sys2Proof.Machine

/-! ### Encoding -/

/-- Decode and encode agree: the header of every command, with every operand at every value, decodes to it. -/
def Obligations.DecodeEncodeRoundTrip : Prop :=
  ∀ i : Instr, (encode i).map decode = [.ok i]

/-- Each legal command has one encoding: a word that decodes is the header of what it decodes to. -/
def Obligations.EachCommandHasOneEncoding : Prop :=
  ∀ (w : Word) (i : Instr), decode w = .ok i → encode i = [w]

/-- A word is a command of a row exactly when its fixed bits are the row's, and no word matches two rows. -/
def Obligations.HeaderDecodesIffItsRowMatches : Prop :=
  (∀ (w : Word) (o : Opcode), (∃ i, decode w = .ok i ∧ i.opcode = o) ↔ w &&& o.mask = o.fixedBits) ∧
  ∀ (w : Word) (o o' : Opcode), w &&& o.mask = o.fixedBits → w &&& o'.mask = o'.fixedBits → o = o'

/-- The illegal header words, by opcode and by must-be-zero field, are exactly those whose step raises
ILLEGAL_COMMAND. -/
def Obligations.IllegalHeadersRaiseIllegalCommand : Prop :=
  ∀ (s : State) (w : Word), s.Ready → s.nextWord = some w →
    ((w.extractLsb' 28 4 ∈ [0x0#4, 0xE#4, 0xF#4] ∨
      (w.extractLsb' 28 4 ∈ [0x1#4, 0x5#4, 0x6#4, 0x7#4, 0x8#4, 0x9#4, 0xD#4] ∧ w.extractLsb' 0 28 ≠ 0#28) ∨
      (w.extractLsb' 28 4 ∈ [0x2#4, 0x3#4, 0x4#4] ∧ (w.extractLsb' 24 4 ≠ 0#4 ∨ w.extractLsb' 8 8 ≠ 0#8)) ∨
      (w.extractLsb' 28 4 ∈ [0xA#4, 0xB#4] ∧ w.extractLsb' 0 24 ≠ 0#24) ∨
      (w.extractLsb' 28 4 = 0xC#4 ∧ w.extractLsb' 8 20 ≠ 0#20)) ↔
    step s = .next { s with faultCause := .illegalCommand })

/-- The encodings that the spec writes out. -/
def Obligations.SpecEncodingExamples : Prop :=
  decode 0x10000000#32 = .ok .init ∧
  decode 0x20000080#32 = .ok (.setp 0#4 0#4 0x80#8) ∧
  decode 0x2045003C#32 = .ok (.setp 5#4 4#4 0x3C#8) ∧
  decode 0x30320001#32 = .ok (.orp 2#4 3#4 0x01#8) ∧
  decode 0x400100F0#32 = .ok (.andp 1#4 0#4 0xF0#8) ∧
  decode 0x50000000#32 = .ok .clr ∧
  decode 0x60000000#32 = .ok .fill ∧
  decode 0x70000000#32 = .ok .rev ∧
  decode 0x90000000#32 = .ok .getall ∧
  decode 0xA9000000#32 = .ok (.metaNumber 9#4) ∧
  decode 0xB9000000#32 = .ok (.metaReverse 9#4) ∧
  decode 0xC000000A#32 = .ok (.bright 10#8) ∧
  decode 0xC0000010#32 = .ok (.bright 16#8) ∧
  decode 0xD0000000#32 = .ok .update ∧
  (assembleCommand (.setall (List.range 36))).toOption =
    some [0x80000000#32, 0x00010203#32, 0x04050607#32, 0x08090A0B#32, 0x0C0D0E0F#32, 0x10111213#32, 0x14151617#32,
      0x18191A1B#32, 0x1C1D1E1F#32, 0x20212223#32]

/-- The packing of 36 bytes into nine words and its inverse undo each other, and payload word `j` holds bytes `4j` to
`4j + 3`, most significant first. -/
def Obligations.PayloadPackingIsExact : Prop :=
  (∀ b : GridBytes, unpackPayload (packPayload b) = b) ∧
  (∀ ws : Vector Word 9, packPayload (unpackPayload ws) = ws) ∧
  ∀ (ws : Vector Word 9) (j : Fin 9) (m : Fin 4),
    (unpackPayload ws)[4 * j.val + m.val] = ws[j].extractLsb' (24 - 8 * m.val) 8

/-- A byte transport sends each word most significant byte first, and the words, and the commands they decode to, arrive
as they were sent. -/
def Obligations.ByteTransportKeepsTheWords : Prop :=
  (∀ w : Word, wordBytes w =
    [w.extractLsb' 24 8, w.extractLsb' 16 8, w.extractLsb' 8 8, w.extractLsb' 0 8]) ∧
  (∀ ws : List Word, wordsOfBytes (ws.flatMap wordBytes) = .ok ws) ∧
  ∀ (w : Word) (rest : List Byte), decodeBytes (wordBytes w ++ rest) = (decode w).map (·, rest)

/-- Each of the thirteen commands in assembly: with encodable operands it gives the words that decode to it, and with any
other operands no word. -/
def Obligations.AssembledCommandsDecode : Prop :=
  (∀ a i, (a, i) ∈ [(AsmCommand.init, Instr.init), (.clr, .clr), (.fill, .fill), (.rev, .rev), (.getall, .getall),
      (.update, .update)] → ∃ w, assembleCommand a = .ok [w] ∧ decode w = .ok i) ∧
  (∀ x y pat : Nat, x ≤ 15 ∧ y ≤ 15 ∧ pat ≤ 255 → ∃ w1 w2 w3,
    assembleCommand (.setp x y pat) = .ok [w1] ∧ decode w1 = .ok (.setp (BitVec.ofNat 4 x) (BitVec.ofNat 4 y) (BitVec.ofNat 8 pat)) ∧
    assembleCommand (.orp x y pat) = .ok [w2] ∧ decode w2 = .ok (.orp (BitVec.ofNat 4 x) (BitVec.ofNat 4 y) (BitVec.ofNat 8 pat)) ∧
    assembleCommand (.andp x y pat) = .ok [w3] ∧ decode w3 = .ok (.andp (BitVec.ofNat 4 x) (BitVec.ofNat 4 y) (BitVec.ofNat 8 pat))) ∧
  (∀ x y pat : Nat, ¬ (x ≤ 15 ∧ y ≤ 15 ∧ pat ≤ 255) → ∃ e,
    assembleCommand (.setp x y pat) = .error e ∧ assembleCommand (.orp x y pat) = .error e ∧
    assembleCommand (.andp x y pat) = .error e) ∧
  (∀ d : Nat, d ≤ 15 → ∃ w1 w2,
    assembleCommand (.metaNumber d) = .ok [w1] ∧ decode w1 = .ok (.metaNumber (BitVec.ofNat 4 d)) ∧
    assembleCommand (.metaReverse d) = .ok [w2] ∧ decode w2 = .ok (.metaReverse (BitVec.ofNat 4 d))) ∧
  (∀ d : Nat, 15 < d → ∃ e, assembleCommand (.metaNumber d) = .error e ∧ assembleCommand (.metaReverse d) = .error e) ∧
  (∀ l : Nat, l ≤ 255 → ∃ w, assembleCommand (.bright l) = .ok [w] ∧ decode w = .ok (.bright (BitVec.ofNat 8 l))) ∧
  (∀ l : Nat, 255 < l → ∃ e, assembleCommand (.bright l) = .error e) ∧
  (∀ bs : List Nat, bs.length = 36 → (∀ v ∈ bs, v ≤ 255) → ∃ ws b,
    assembleCommand (.setall bs) = .ok ws ∧ decodeCommand ws = .ok (HostCommand.load b, []) ∧
    ∀ i : Fin 36, b[i].toNat = bs.getD i.val 0) ∧
  (∀ bs : List Nat, ¬ (bs.length = 36 ∧ ∀ v ∈ bs, v ≤ 255) → ∃ e, assembleCommand (.setall bs) = .error e)

/-- The four pseudo-instructions and their expansions. Where several operands of SHOW are bad, WHICH of their errors it
gives, the first one, is the model's choice and no rule of the spec (log 18). -/
def Obligations.PseudoInstructionsExpand : Prop :=
  (∀ x y : Nat, assembleCommand (.clrp x y) = assembleCommand (.setp x y 0x00)) ∧
  (∀ d : Nat, assembleCommand (.render d) =
    (do let a ← assembleCommand .clr; let b ← assembleCommand (.metaNumber d); pure (a ++ b))) ∧
  (∀ d : Nat, assembleCommand (.renderr d) =
    (do let a ← assembleCommand .fill; let b ← assembleCommand (.metaReverse d); pure (a ++ b))) ∧
  ∀ (bs : List Nat) (l : Nat), assembleCommand (.display bs l) =
    (do let a ← assembleCommand (.setall bs); let b ← assembleCommand (.bright l)
        let c ← assembleCommand .update; pure (a ++ b ++ c))

/-! ### The command port -/

/-- A step of a ready block is exactly the meaning of the command that the next word decodes to; the meaning itself
advances `pc`. -/
def Obligations.ReadyStepRunsTheDecodedCommand : Prop :=
  ∀ (s : State) (w : Word) (i : Instr), s.Ready → s.nextWord = some w → decode w = .ok i → step s = exec i s

/-- `withFetchWord` presents the word to the very next step (the model's own loader, log 17). -/
def Obligations.FetchedWordRunsNext : Prop :=
  ∀ (s : State) (w : Word) (i : Instr), decode w = .ok i →
    step (s.withFetchWord 32 w.toNat) = exec i (s.withFetchWord 32 w.toNat) ∧ decodeTableWord 32 w.toNat = some i

/-- What the block settles when a word arrives, in its order. That a faulted block, which takes no step, answers the
named fault `halted` is the model's reading (log 3). -/
def Obligations.PortSettlesInPriorityOrder : Prop :=
  ∀ s : State, s.resetIn = none →
    (s.faultCause ≠ .none → step s = .fault (.halted s.faultCause)) ∧
    (s.faultCause = .none → ∀ w, s.nextWord = some w →
      (s.pendActive = true → step s = .next (takePayload w s)) ∧
      (s.pendActive = false → (∀ i, decode w ≠ .ok i) → step s = .next { s with faultCause := .illegalCommand }) ∧
      (s.pendActive = false → ∀ i, decode w = .ok i → ∃ t, step s = .next t ∧ t.faultCause = firstCause i s ∧
        (firstCause i s ≠ .none → t = { s with faultCause := firstCause i s }) ∧
        (firstCause i s = .none → ∀ l : Byte, i = .bright l → 16 ≤ l.toNat →
          t = { s with trace := s.trace ++ [.logBrightnessRejected l], pc := s.pc + 1 })))

/-- A run ends in one of three ways, and only there is there no step; nothing is ever refused. That an ended run is a
state without a step is the model's reading (log 3). -/
def Obligations.StepStopsExactlyAtTheEndOfARun : Prop :=
  ∀ s : State, s.resetIn = none →
    (∀ r, step s = .fault r ↔
      (r = .runComplete ∧ s.IsFinal) ∨ (r = .runIncomplete ∧ s.IsIncomplete) ∨ (r = .halted s.faultCause ∧ s.IsFaulted)) ∧
    ∀ q, step s ≠ .refused q

/-- `pc` moves by one word for every word taken and stays at a faulting header; no step changes what is on the port
(the list of words on the port is the model's own, log 1). -/
def Obligations.PcCountsTheWordsTaken : Prop :=
  ∀ s t : State, s.resetIn = none → step s = .next t →
    t.stream = s.stream ∧ t.resetIn = none ∧ t.pc = if t.faultCause = .none then s.pc + 1 else s.pc

/-- The reset input acts in every state, a faulted one too, and leaves the reset state with the presented stream on the
port (the stream is the model's own, log 2): on the device, and in every configuration with its own GRID_RESET. -/
def Obligations.ResetInputActsInEveryState : Prop :=
  ∀ (s : State) (ws : List Word),
    step (s.assertReset ws) = .next { State.reset with stream := ws } ∧
    (∀ c : Config, stepWith c (s.assertReset ws) = .next { State.resetWith c.gridReset with stream := ws }) ∧
    State.reset.faultCause = .none ∧ State.reset.init = false ∧ State.reset.pendActive = false ∧
    State.reset.trace = [] ∧ State.reset.pc = 0

/-- What reset leaves, in both values of GRID_RESET; unspecified contents are not stated. -/
def Obligations.ResetLeavesTheSpecValues : Prop :=
  ∀ g : GridReset,
    (∀ y x, (State.resetWith g).isDefined y x = (match g with | .undef => false | .zero => true)) ∧
    (g = .zero → ∀ y x, (State.resetWith g).cell y x = 0x00#8) ∧
    (State.resetWith g).init = false ∧ (State.resetWith g).brightDef = false ∧
    (State.resetWith g).faultCode = 0#3 ∧ (State.resetWith g).pendActive = false ∧
    (State.resetWith g).pendCountBits = 0#4 ∧ (State.resetWith g).pc = 0 ∧ (State.resetWith g).trace = []

/-- The device is the configured machine at the device's configuration, whose GRID_RESET and ROW1_SLOT_BASE are the
spec's decisions (log 7, 8). -/
def Obligations.DeviceIsTheConfiguredMachine : Prop :=
  ∀ s : State, step s = stepWith Config.device s

/-- A configuration is loaded exactly when it is well-formed, an ill-formed one is refused and never runs, and a loaded
table holds the entries it was given (the form of a raw configuration is the model's own, log 20). -/
def Obligations.IllFormedConfigurationsAreRefused : Prop :=
  (∀ r : RawConfig, (∃ c, r.load = .ok c) ↔
    (r.stencilRom.length = 8 ∧ (∀ pl ∈ r.stencilRom, pl.length = 6 ∧ ∀ row ∈ pl, row.length = 6) ∧
      r.nst.length = 16 ∧ (∀ pl ∈ r.stencilRom, ∀ row ∈ pl, ∀ v ∈ row, v ≤ 255) ∧ (∀ v ∈ r.nst, v ≤ 255) ∧
      r.unitAddr.length = 3 ∧ (r.row1SlotBase = 6 ∨ r.row1SlotBase = 8))) ∧
  (∀ (r : RawConfig) (e : ConfigError) (s : State), r.load = .error e → stepRaw r s = .refused (.illFormedConfig e)) ∧
  (∀ (r : RawConfig) (c : Config) (s : State), r.load = .ok c → stepRaw r s = stepWith c s ∧
    (∀ (p : Fin 8) (y x : Coord), (stencilEntry c p x y).toNat = ((r.stencilRom.getD p.val []).getD y.val []).getD x.val 0) ∧
    (∀ d : Fin 16, (lutEntry c d).toNat = r.nst.getD d.val 0) ∧
    (∀ u : Fin 3, r.unitAddr[u.val]? = some (unitAddress c u)) ∧
    c.slotBase.toNat = r.row1SlotBase ∧ c.gridReset = r.gridReset)

/-! ### Faults -/

/-- A faulted block takes no word and has no step (the model answers a named fault, log 3); only reset leaves the faulted
state, and it clears the rest of the state too. -/
def Obligations.OnlyResetLeavesTheFaultedState : Prop :=
  ∀ s : State, s.faultCause ≠ .none →
    (s.resetIn = none → step s = .fault (.halted s.faultCause)) ∧
    ∀ t, step s = .next t → ∃ ws, s.resetIn = some ws ∧ t = { State.reset with stream := ws }

/-- Faults are precise: the state after a fault is the state before the command but for FAULT_CAUSE, whose code is
1 to 5. -/
def Obligations.FaultsArePrecise : Prop :=
  ∀ s t : State, s.faultCause = .none → step s = .next t → t.faultCause ≠ .none →
    t = { s with faultCause := t.faultCause } ∧ 1 ≤ t.faultCode.toNat ∧ t.faultCode.toNat ≤ 5

/-- Every mutator raises NOT_INITIALIZED while INIT is 0; INIT and GETALL do not. -/
def Obligations.MutatorsNeedInit : Prop :=
  ∀ (i : Instr) (s : State), s.init = false →
    ((i = .clr ∨ i = .fill ∨ i = .rev ∨ i = .setall ∨ i = .update ∨ (∃ l, i = .bright l) ∨
      (∃ x y p, i = .setp x y p ∨ i = .orp x y p ∨ i = .andp x y p) ∨
      (∃ d, i = .metaNumber d ∨ i = .metaReverse d)) →
      exec i s = .next { s with faultCause := .notInitialized }) ∧
    (i = .init ∨ i = .getall → ∃ t, exec i s = .next t ∧ (s.faultCause ≠ .notInitialized → t.faultCause ≠ .notInitialized))

/-- An out-of-range coordinate is a fault of the cell commands: it is not wrapped, clamped or masked. -/
def Obligations.OutOfRangeCoordinatesFault : Prop :=
  ∀ (x y : Nibble) (pat : Byte) (s : State), s.init = true → 6 ≤ x.toNat ∨ 6 ≤ y.toNat →
    exec (.setp x y pat) s = .next { s with faultCause := .coordRange } ∧
    exec (.orp x y pat) s = .next { s with faultCause := .coordRange } ∧
    exec (.andp x y pat) s = .next { s with faultCause := .coordRange }

/-- A read of an undefined cell is a fault: of its one cell for ORP and ANDP, of any cell for the whole-grid readers. -/
def Obligations.UndefinedReadsFault : Prop :=
  (∀ (cy cx : Coord) (x y : Nibble) (pat : Byte) (s : State), s.init = true → x.toNat = cx.val → y.toNat = cy.val →
    s.isDefined cy cx = false →
      exec (.orp x y pat) s = .next { s with faultCause := .undefinedCell } ∧
      exec (.andp x y pat) s = .next { s with faultCause := .undefinedCell }) ∧
  ∀ (y x : Coord) (s : State), s.isDefined y x = false →
    exec .getall s = .next { s with faultCause := .undefinedCell } ∧
    (s.init = true → ∀ d : Nibble,
      exec .rev s = .next { s with faultCause := .undefinedCell } ∧
      exec .update s = .next { s with faultCause := .undefinedCell } ∧
      exec (.metaNumber d) s = .next { s with faultCause := .undefinedCell } ∧
      exec (.metaReverse d) s = .next { s with faultCause := .undefinedCell })

/-! ### Control commands -/

/-- INIT: binds the bus once, faults the second time; its encoding is one word. -/
def Obligations.InitBindsTheBusOnce : Prop :=
  (∀ s : State, s.init = false →
    exec .init s = .next { s with init := true, trace := s.trace ++ [.busInit], pc := s.pc + 1 }) ∧
  (∀ s : State, s.init = true → exec .init s = .next { s with faultCause := .alreadyInitialized }) ∧
  ∀ w : Word, decode w = .ok .init ↔ w = 0x10000000#32

/-- BRIGHT: a legal level is held and sent to the three units in order; an illegal one is logged and ignored. On the
device and in every configuration, each with its own unit addresses. -/
def Obligations.BrightSetsOrRejectsTheLevel : Prop :=
  (∀ (c : Config) (level : Byte) (s : State),
    (s.init = true → level.toNat ≤ 15 → execWith c (.bright level) s = .next { s with
      bright := level.extractLsb' 0 4
      brightDef := true
      trace := s.trace ++ [.busBrightness c.unitAddr[0] (level.extractLsb' 0 4),
        .busBrightness c.unitAddr[1] (level.extractLsb' 0 4), .busBrightness c.unitAddr[2] (level.extractLsb' 0 4)]
      pc := s.pc + 1 }) ∧
    (s.init = true → 16 ≤ level.toNat → execWith c (.bright level) s =
      .next { s with trace := s.trace ++ [.logBrightnessRejected level], pc := s.pc + 1 }) ∧
    (s.init = false → execWith c (.bright level) s = .next { s with faultCause := .notInitialized })) ∧
  (∀ (level : Byte) (s : State), s.init = true → level.toNat ≤ 15 →
    exec (.bright level) s = .next { s with
      bright := level.extractLsb' 0 4
      brightDef := true
      trace := s.trace ++ [.busBrightness Config.unitAddresses[0] (level.extractLsb' 0 4),
        .busBrightness Config.unitAddresses[1] (level.extractLsb' 0 4),
        .busBrightness Config.unitAddresses[2] (level.extractLsb' 0 4)]
      pc := s.pc + 1 }) ∧
  (∀ (level : Byte) (s : State), s.init = true → 16 ≤ level.toNat →
    exec (.bright level) s = .next { s with trace := s.trace ++ [.logBrightnessRejected level], pc := s.pc + 1 }) ∧
  (∀ (level : Byte) (s : State), s.init = false →
    exec (.bright level) s = .next { s with faultCause := .notInitialized }) ∧
  ∀ w : Word, w &&& 0xFFFFFF00#32 = 0xC0000000#32 ↔ decode w = .ok (.bright (w.extractLsb' 0 8))

/-! ### Grid primitives -/

/-- SETP overwrites one cell, defined or not, and no other. -/
def Obligations.SetpOverwritesOneCell : Prop :=
  (∀ (cy cx : Coord) (x y : Nibble) (pat : Byte) (s : State), s.init = true → x.toNat = cx.val → y.toNat = cy.val →
    ∃ t, exec (.setp x y pat) s = .next t ∧ s.CellWritten t cy cx pat) ∧
  (∀ (x y : Nibble) (pat : Byte) (s : State), s.init = true → 6 ≤ x.toNat ∨ 6 ≤ y.toNat →
    exec (.setp x y pat) s = .next { s with faultCause := .coordRange }) ∧
  (∀ (x y : Nibble) (pat : Byte) (s : State), s.init = false →
    exec (.setp x y pat) s = .next { s with faultCause := .notInitialized }) ∧
  ∀ w : Word, w &&& 0xFF00FF00#32 = 0x20000000#32 ↔
    decode w = .ok (.setp (w.extractLsb' 16 4) (w.extractLsb' 20 4) (w.extractLsb' 0 8))

/-- ORP sets bits of one defined cell; its faults come in the order NOT_INITIALIZED, COORD_RANGE, UNDEFINED_CELL. -/
def Obligations.OrpSetsBitsOfOneCell : Prop :=
  (∀ (cy cx : Coord) (x y : Nibble) (pat : Byte) (s : State), s.init = true → x.toNat = cx.val → y.toNat = cy.val →
    (s.isDefined cy cx = true →
      ∃ t, exec (.orp x y pat) s = .next t ∧ s.CellWritten t cy cx (s.cell cy cx ||| pat)) ∧
    (s.isDefined cy cx = false → exec (.orp x y pat) s = .next { s with faultCause := .undefinedCell })) ∧
  (∀ (x y : Nibble) (pat : Byte) (s : State), s.init = true → 6 ≤ x.toNat ∨ 6 ≤ y.toNat →
    exec (.orp x y pat) s = .next { s with faultCause := .coordRange }) ∧
  (∀ (x y : Nibble) (pat : Byte) (s : State), s.init = false →
    exec (.orp x y pat) s = .next { s with faultCause := .notInitialized }) ∧
  ∀ w : Word, w &&& 0xFF00FF00#32 = 0x30000000#32 ↔
    decode w = .ok (.orp (w.extractLsb' 16 4) (w.extractLsb' 20 4) (w.extractLsb' 0 8))

/-- ANDP clears bits of one defined cell: the operand names the bits to clear. -/
def Obligations.AndpClearsBitsOfOneCell : Prop :=
  (∀ (cy cx : Coord) (x y : Nibble) (pat : Byte) (s : State), s.init = true → x.toNat = cx.val → y.toNat = cy.val →
    (s.isDefined cy cx = true →
      ∃ t, exec (.andp x y pat) s = .next t ∧ s.CellWritten t cy cx (s.cell cy cx &&& ~~~pat)) ∧
    (s.isDefined cy cx = false → exec (.andp x y pat) s = .next { s with faultCause := .undefinedCell })) ∧
  (∀ (x y : Nibble) (pat : Byte) (s : State), s.init = true → 6 ≤ x.toNat ∨ 6 ≤ y.toNat →
    exec (.andp x y pat) s = .next { s with faultCause := .coordRange }) ∧
  (∀ (x y : Nibble) (pat : Byte) (s : State), s.init = false →
    exec (.andp x y pat) s = .next { s with faultCause := .notInitialized }) ∧
  ∀ w : Word, w &&& 0xFF00FF00#32 = 0x40000000#32 ↔
    decode w = .ok (.andp (w.extractLsb' 16 4) (w.extractLsb' 20 4) (w.extractLsb' 0 8))

/-- CLR and FILL write every cell, defined or not. -/
def Obligations.ClrAndFillWriteEveryCell : Prop :=
  (∀ s : State, s.init = true →
    (∃ t, exec .clr s = .next t ∧ s.GridWritten t fun _ _ => 0x00#8) ∧
    ∃ t, exec .fill s = .next t ∧ s.GridWritten t fun _ _ => 0xFF#8) ∧
  (∀ s : State, s.init = false → exec .clr s = .next { s with faultCause := .notInitialized } ∧
    exec .fill s = .next { s with faultCause := .notInitialized }) ∧
  ∀ w : Word, (decode w = .ok .clr ↔ w = 0x50000000#32) ∧ (decode w = .ok .fill ↔ w = 0x60000000#32)

/-- REV complements every cell of a defined grid. -/
def Obligations.RevComplementsEveryCell : Prop :=
  (∀ s : State, s.init = true → s.AllDefined →
    ∃ t, exec .rev s = .next t ∧ s.GridWritten t fun y x => ~~~s.cell y x) ∧
  (∀ s : State, s.init = true → (∃ y x, s.isDefined y x = false) →
    exec .rev s = .next { s with faultCause := .undefinedCell }) ∧
  (∀ s : State, s.init = false → exec .rev s = .next { s with faultCause := .notInitialized }) ∧
  ∀ w : Word, decode w = .ok .rev ↔ w = 0x70000000#32

/-- The laws of the grid primitives. -/
def Obligations.GridPrimitiveLaws : Prop :=
  ∀ (cy cx : Coord) (x y : Nibble) (p q : Byte) (s : State), s.init = true → s.AllDefined → x.toNat = cx.val →
    y.toNat = cy.val →
    (∃ t b, execAll exec [.setp x y p, .getall] s = .next t ∧ t.trace = s.trace ++ [.resp b] ∧
      b[6 * cy.val + cx.val] = p) ∧
    sameButPc (execAll exec [.orp x y p, .orp x y p] s) (exec (.orp x y p) s) ∧
    sameButPc (execAll exec [.andp x y p, .andp x y p] s) (exec (.andp x y p) s) ∧
    sameButPc (execAll exec [.orp x y p, .orp x y q] s) (execAll exec [.orp x y q, .orp x y p] s) ∧
    sameButPc (execAll exec [.orp x y p, .orp x y q] s) (exec (.orp x y (p ||| q)) s) ∧
    sameButPc (execAll exec [.andp x y p, .andp x y q] s) (execAll exec [.andp x y q, .andp x y p] s) ∧
    sameButPc (execAll exec [.andp x y p, .andp x y q] s) (exec (.andp x y (p ||| q)) s) ∧
    (∃ t, execAll exec [.andp x y p, .orp x y p] s = .next t ∧ t.cell cy cx = s.cell cy cx ||| p) ∧
    (∃ t, execAll exec [.clr, .fill, .rev] s = .next t ∧ ∀ y' x', t.cell y' x' = 0x00#8) ∧
    (∃ t, execAll exec [.clr, .rev] s = .next t ∧ ∀ y' x', t.cell y' x' = 0xFF#8) ∧
    sameButPc (execAll exec [.rev, .rev] s) (.next s)

/-- Every command but REV and INIT has an idempotent effect on the block's state, and executed again it emits the same
records again: a command of one word, and a whole SETALL with the same payload words, twice on the port (log 1). REV
twice restores the grid, and the second INIT faults. -/
def Obligations.CommandsAreIdempotentButRevAndInit : Prop :=
  (∀ (i : Instr) (s t : State), i ≠ .rev → i ≠ .init → i ≠ .setall → exec i s = .next t → t.faultCause = .none →
    ∃ rs : List Record, t.trace = s.trace ++ rs ∧
      exec i t = .next { t with trace := t.trace ++ rs, pc := t.pc + 1 }) ∧
  (∀ (s : State) (h : HostCommand), h.instr = .setall → h.whole = true → s.Ready → s.init = true →
    hostWords [h, h] <+: s.stream.drop s.pc →
    ∃ t, runSteps 10 s = .next t ∧ t.Ready ∧ t.trace = s.trace ∧ runSteps 20 s = .next { t with pc := t.pc + 10 }) ∧
  (∀ s : State, s.init = true → s.AllDefined →
    ∃ t, exec .rev s = .next t ∧ exec .rev t = .next { s with pc := s.pc + 2 }) ∧
  ∀ s : State, s.init = false →
    ∃ t, exec .init s = .next t ∧ exec .init t = .next { t with faultCause := .alreadyInitialized }

/-! ### Bulk transfer -/

/-- SETALL: the header opens the payload, each of the first eight payload words is stored and counted, and the ninth
changes the 36 cells together; no payload word is decoded. -/
def Obligations.SetallTakesItsPayload : Prop :=
  (∀ s : State, s.init = true →
    exec .setall s = .next { s with pendActive := true, pendCount := 0, pc := s.pc + 1 }) ∧
  (∀ s : State, s.init = false → exec .setall s = .next { s with faultCause := .notInitialized }) ∧
  (∀ (s : State) (w : Word), s.resetIn = none → s.faultCause = .none → s.pendActive = true → s.nextWord = some w →
    (s.pendCount.val < 8 → ∃ t, step s = .next t ∧ t.pendCount.val = s.pendCount.val + 1 ∧
      t = { s with pendCount := t.pendCount, pendWords := s.pendWords.set s.pendCount.val w, pc := s.pc + 1 }) ∧
    (s.pendCount.val = 8 → ∃ t, step s = .next t ∧
      (∀ (i : Fin 36) (y x : Coord), i.val / 6 = y.val → i.val % 6 = x.val → t.isDefined y x = true ∧
        t.cell y x = ((s.pendWords.set 8 w)[i.val / 4]'(by omega)).extractLsb' (24 - 8 * (i.val % 4)) 8) ∧
      t = { s with
        cells := t.cells, defined := t.defined, pendWords := s.pendWords.set 8 w, pendActive := false
        pendCount := 0, pc := s.pc + 1 })) ∧
  ∀ w : Word, decode w = .ok .setall ↔ w = 0x80000000#32

/-- A whole SETALL on the port is taken in ten steps: until the tenth the grid is unchanged, then it is the 36 bytes
(the words stand in the stream at `pc`, log 1). -/
def Obligations.SetallLoadsTheGridInTenSteps : Prop :=
  ∀ (s : State) (b : GridBytes), s.Ready → s.init = true →
    (HostCommand.load b).words <+: s.stream.drop s.pc →
    (∀ k, k < 10 → ∃ t, runSteps k s = .next t ∧ t.cells = s.cells ∧ t.defined = s.defined) ∧
    ∃ t, runSteps 10 s = .next t ∧ t.AllDefined ∧
      t = { s with
        cells := b, defined := t.defined, pendActive := false, pendCount := 0, pendWords := packPayload b
        pc := s.pc + 10 }

/-- GETALL emits the grid in serial order, initialised or not, and changes no state; right after reset it returns zeros
or faults, as GRID_RESET says. -/
def Obligations.GetallEmitsTheGrid : Prop :=
  (∀ s : State, s.AllDefined → ∃ b : GridBytes,
    exec .getall s = .next { s with trace := s.trace ++ [.resp b], pc := s.pc + 1 } ∧
    ∀ (i : Fin 36) (y x : Coord), i.val / 6 = y.val → i.val % 6 = x.val → b[i] = s.cell y x) ∧
  (∀ s : State, (∃ y x, s.isDefined y x = false) → exec .getall s = .next { s with faultCause := .undefinedCell }) ∧
  exec .getall (State.resetWith .zero) =
    .next { State.resetWith .zero with trace := [.resp (Vector.replicate 36 0x00#8)], pc := 1 } ∧
  exec .getall (State.resetWith .undef) = .next { State.resetWith .undef with faultCause := .undefinedCell } ∧
  ∀ w : Word, decode w = .ok .getall ↔ w = 0x90000000#32

/-- The bytes that GETALL emits on one block, loaded by SETALL on any initialised block, give that block the same
grid (the words stand in the stream at `pc`, log 1). -/
def Obligations.GetallThenSetallRestoresTheGrid : Prop :=
  ∀ s t : State, s.AllDefined → t.Ready → t.init = true → ∃ b : GridBytes,
    exec .getall s = .next { s with trace := s.trace ++ [.resp b], pc := s.pc + 1 } ∧
    ((HostCommand.load b).words <+: t.stream.drop t.pc →
      ∃ u, runSteps 10 t = .next u ∧ u.AllDefined ∧ ∀ y x, u.cell y x = s.cell y x)

/-! ### Meta numbers -/

/-- META sets in each cell, and METAR clears, exactly the bits that the stencil of some lit plane holds, in every
configuration and on the device. -/
def Obligations.MetaNumbersOverlayTheLitStencils : Prop :=
  ∀ (c : Config) (digit : Nibble) (s : State), s.init = true → s.AllDefined →
    (∃ f, (∃ t, execWith c (.metaNumber digit) s = .next t ∧ s.GridWritten t f) ∧
      ∀ (y x : Coord) (b : Fin 8), (f y x).getLsbD b.val = ((s.cell y x).getLsbD b.val ||
        decide (∃ p : Fin 8, (c.nst[digit.toNat]'(digit.isLt)).getLsbD (7 - p.val) = true ∧
          (c.rom[36 * p.val + 6 * y.val + x.val]).getLsbD b.val = true))) ∧
    (∃ f, (∃ t, execWith c (.metaReverse digit) s = .next t ∧ s.GridWritten t f) ∧
      ∀ (y x : Coord) (b : Fin 8), (f y x).getLsbD b.val = ((s.cell y x).getLsbD b.val &&
        ! decide (∃ p : Fin 8, (c.nst[digit.toNat]'(digit.isLt)).getLsbD (7 - p.val) = true ∧
          (c.rom[36 * p.val + 6 * y.val + x.val]).getLsbD b.val = true))) ∧
    exec (.metaNumber digit) s = execWith Config.device (.metaNumber digit) s ∧
    exec (.metaReverse digit) s = execWith Config.device (.metaReverse digit) s

/-- META and METAR on the device: on a defined grid of an initialised block they complete, with the overlay mask `M(d)`
in every cell; their faults are NOT_INITIALIZED, then UNDEFINED_CELL, whatever the mask. -/
def Obligations.MetaNumbersApplyTheOverlayMask : Prop :=
  (∀ (digit : Nibble) (s : State), s.init = true → s.AllDefined →
    (∃ t, exec (.metaNumber digit) s = .next t ∧
      s.GridWritten t fun y x => s.cell y x ||| overlayMask Config.device digit y x) ∧
    ∃ t, exec (.metaReverse digit) s = .next t ∧
      s.GridWritten t fun y x => s.cell y x &&& ~~~overlayMask Config.device digit y x) ∧
  (∀ (digit : Nibble) (s : State), s.init = false →
    exec (.metaNumber digit) s = .next { s with faultCause := .notInitialized } ∧
    exec (.metaReverse digit) s = .next { s with faultCause := .notInitialized }) ∧
  (∀ (digit : Nibble) (s : State), s.init = true → (∃ y x, s.isDefined y x = false) →
    exec (.metaNumber digit) s = .next { s with faultCause := .undefinedCell } ∧
    exec (.metaReverse digit) s = .next { s with faultCause := .undefinedCell }) ∧
  (∀ w : Word, w &&& 0xF0FFFFFF#32 = 0xA0000000#32 ↔ decode w = .ok (.metaNumber (w.extractLsb' 24 4))) ∧
  ∀ w : Word, w &&& 0xF0FFFFFF#32 = 0xB0000000#32 ↔ decode w = .ok (.metaReverse (w.extractLsb' 24 4))

/-- The laws of meta-number rendering, for every digit and every configuration. -/
def Obligations.MetaNumberLaws : Prop :=
  ∀ (c : Config) (digit : Nibble) (s : State), s.init = true →
    (∃ t, execAll (execWith c) [.clr, .metaNumber digit] s = .next t ∧ ∀ y x, t.cell y x = overlayMask c digit y x) ∧
    (∃ t, execAll (execWith c) [.fill, .metaReverse digit] s = .next t ∧
      ∀ y x, t.cell y x = ~~~overlayMask c digit y x) ∧
    sameButPc (execAll (execWith c) [.clr, .metaNumber digit, .rev] s)
      (execAll (execWith c) [.fill, .metaReverse digit] s)

/-! ### The encoder -/

/-- UPDATE emits one image for each unit in order, every bit of which is what the multiplexer says, and changes nothing
else: on the device, whose second row starts at slot 6 (the spec's decision between two values, log 8), and in every
configuration, for both slot maps. Its faults are NOT_INITIALIZED, then UNDEFINED_CELL, and its encoding is one word. -/
def Obligations.UpdateIsTheMultiplexer : Prop :=
  (∀ s : State, s.init = true → s.AllDefined → ∃ imgs : Vector Image 3,
    exec .update s = .next { s with
      trace := s.trace ++ [.busDisplay Config.unitAddresses[0] imgs[0], .busDisplay Config.unitAddresses[1] imgs[1],
        .busDisplay Config.unitAddresses[2] imgs[2]]
      pc := s.pc + 1 } ∧
    ∀ (u : Fin 3) (k : Fin 16) (b : Fin 8), (imgs[u][k]).getLsbD b.val = muxBit .six s.cells u k b) ∧
  (∀ (c : Config) (s : State), s.init = true → s.AllDefined → ∃ imgs : Vector Image 3,
    execWith c .update s = .next { s with
      trace := s.trace ++ [.busDisplay c.unitAddr[0] imgs[0], .busDisplay c.unitAddr[1] imgs[1],
        .busDisplay c.unitAddr[2] imgs[2]]
      pc := s.pc + 1 } ∧
    ∀ (u : Fin 3) (k : Fin 16) (b : Fin 8), (imgs[u][k]).getLsbD b.val = muxBit c.slotBase s.cells u k b) ∧
  (∀ s : State, s.init = false → exec .update s = .next { s with faultCause := .notInitialized }) ∧
  (∀ s : State, s.init = true → (∃ y x, s.isDefined y x = false) →
    exec .update s = .next { s with faultCause := .undefinedCell }) ∧
  ∀ w : Word, decode w = .ok .update ↔ w = 0xD0000000#32

/-- Segment `p` of the cell in slot `d` is at bit `d mod 8` of image byte `2p + d div 8`, and every bit that no cell
maps to is 0. -/
def Obligations.SegmentsLandAtTheirSlots : Prop :=
  ∀ (base : SlotBase) (g : GridBytes) (u : Fin 3),
    (∀ (r : Fin 2) (x : Coord) (p : Fin 8) (d : Fin 16) (k : Fin 16),
      d.val = (if r = 0 then 0 else base.toNat) + x.val → k.val = 2 * p.val + d.val / 8 →
      ((imageOf base g u)[k]).getLsbD (d.val % 8) = (g[6 * (2 * u.val + r.val) + x.val]).getLsbD (7 - p.val)) ∧
    ∀ (k : Fin 16) (b : Fin 8),
      (∀ (r : Fin 2) (x : Coord), (if r = 0 then 0 else base.toNat) + x.val ≠ 8 * (k.val % 2) + b.val) →
      ((imageOf base g u)[k]).getLsbD b.val = false

/-- The map from cell bits to image bits is one-to-one under both slot maps. -/
def Obligations.CellBitsMapOneToOne : Prop :=
  ∀ (base : SlotBase) (u u' : Fin 3) (r r' : Fin 2) (x x' : Coord) (p p' : Fin 8),
    (u = u' ∧ imageByte p (slotOf base r x) = imageByte p' (slotOf base r' x') ∧
      imageBit (slotOf base r x) = imageBit (slotOf base r' x')) →
    u = u' ∧ r = r' ∧ x = x' ∧ p = p'

/-- A single lit segment lights exactly one image bit, at its predicted place. -/
def Obligations.OneSegmentLightsOneImageBit : Prop :=
  ∀ (base : SlotBase) (y x : Coord) (p : Fin 8) (u : Fin 3) (k : Fin 16) (b : Fin 8) (g : GridBytes),
    (∀ (y' x' : Coord) (p' : Fin 8), segmentBit g[cellIx y' x'] p' = decide (y' = y ∧ x' = x ∧ p' = p)) →
    ((imageOf base g u)[k]).getLsbD b.val = decide (u.val = y.val / 2 ∧
      k.val = 2 * p.val + ((if y.val % 2 = 0 then 0 else base.toNat) + x.val) / 8 ∧
      b.val = ((if y.val % 2 = 0 then 0 else base.toNat) + x.val) % 8)

/-- The image of the OR of two grids is the byte-wise OR of their images. -/
def Obligations.ImagesAreLinear : Prop :=
  ∀ (base : SlotBase) (g g' gor : GridBytes) (u : Fin 3), (∀ i : Fin 36, gor[i] = g[i] ||| g'[i]) →
    ∀ k : Fin 16, (imageOf base gor u)[k] = (imageOf base g u)[k] ||| (imageOf base g' u)[k]

/-- The image of a unit depends only on its two rows. -/
def Obligations.AUnitsImageDependsOnItsRowsOnly : Prop :=
  ∀ (base : SlotBase) (g g' : GridBytes) (u : Fin 3),
    (∀ y x : Coord, y.val = 2 * u.val ∨ y.val = 2 * u.val + 1 → g[cellIx y x] = g'[cellIx y x]) →
    imageOf base g u = imageOf base g' u

/-- The three images have as many 1 bits as the grid. -/
def Obligations.ImagesKeepTheBitCount : Prop :=
  ∀ (base : SlotBase) (g : GridBytes), imageBitCount base g = gridBitCount g

/-! ### The whole machine -/

/-- Which command writes which state. The last two conjuncts are about the model's own fields, the words on the port
(log 1) and the reset input (log 2). -/
def Obligations.EachCommandWritesOnlyItsState : Prop :=
  ∀ (i : Instr) (s t : State), exec i s = .next t →
    (t.cells ≠ s.cells ∨ t.defined ≠ s.defined → writesGrid i = true) ∧
    (t.init ≠ s.init → i = .init) ∧
    (t.bright ≠ s.bright ∨ t.brightDef ≠ s.brightDef → ∃ l : Byte, i = .bright l ∧ l.toNat ≤ 15) ∧
    (t.pendActive ≠ s.pendActive ∨ t.pendCount ≠ s.pendCount → i = .setall) ∧ t.pendWords = s.pendWords ∧
    (t.trace ≠ s.trace → i = .init ∨ i = .getall ∨ i = .update ∨ ∃ l, i = .bright l) ∧
    t.stream = s.stream ∧ t.resetIn = s.resetIn

/-- The trace only grows between resets, by at most three records a step, and the block never reads it: steps from
states that differ in the trace alone emit the same records (that the trace stands in State is the model's reading,
log 13). -/
def Obligations.TraceOnlyGrows : Prop :=
  ∀ (s t : State), s.resetIn = none → step s = .next t → ∃ rs : List Record, rs.length ≤ 3 ∧
    ∀ tr : List Record, step { s with trace := tr } = .next { t with trace := tr ++ rs }

/-- Only reset clears INIT, BRIGHT_DEF and a definedness tag. -/
def Obligations.OnlyResetClearsInitAndTags : Prop :=
  ∀ s t : State, s.resetIn = none → step s = .next t →
    (s.init = true → t.init = true) ∧ (s.brightDef = true → t.brightDef = true) ∧
    ∀ y x, s.isDefined y x = true → t.isDefined y x = true

/-- The invariant holds after reset of the device, whose grid is undefined then (log 7), with no word on the port
(log 1). -/
def Obligations.ResetMeetsTheInvariant : Prop := State.reset.Inv

/-- Every step keeps the invariant, from every state that meets it. Two of its clauses are no rule of the spec: that
before INIT no cell is defined and nothing has been emitted holds because GRID_RESET of the device is UNDEF (log 7), and
that `pc` stays within the words on the port is about the model's own stream (log 1). -/
def Obligations.EveryStepKeepsTheInvariant : Prop :=
  ∀ s t : State, s.Inv → step s = .next t → t.Inv

/-- Contents that the spec leaves unspecified (undefined cells, BRIGHT before it is written, payload words not received)
are unobservable: states that differ in nothing else show the same observation and step alike. So no value the model
chose for them at reset (log 4, 5, 6) can be seen. -/
def Obligations.UnspecifiedContentsAreUnobservable : Prop :=
  ∀ s t : State, s.Agree t → s.observe = t.observe ∧ sameOutcome (step s) (step t)

/-! ### The hosts -/

/-- Two hosts' whole commands in an interleaving at command granularity (the hosts are outside the block, log 16). Every
schedule gives a permutation of what both hosts write, each host's in its own order, and every shuffle is reached by
some schedule; so of commands, and of whole updates under a lock. Placed on the port of a ready block (log 1), the words of any interleaving are whole commands, and the
steps of the block take them one by one, in that order, up to the first that faults. -/
def Obligations.InterleavingKeepsWholeCommands : Prop :=
  (∀ (α : Type) (sched : List HostAgent) (as bs : List α),
    (interleave sched as bs).Perm (as ++ bs) ∧
    as.Sublist (interleave sched as bs) ∧ bs.Sublist (interleave sched as bs)) ∧
  (∀ (α : Type) (as bs cs : List α), Shuffle as bs cs ↔ ∃ sched, interleave sched as bs = cs) ∧
  ∀ (as bs cs : List HostCommand) (s : State), dutyKept as = true → dutyKept bs = true → Shuffle as bs cs → s.Ready →
    hostWords cs <+: s.stream.drop s.pc →
    dutyKept cs = true ∧ ∃ k t, k ≤ (hostWords cs).length ∧ runSteps k s = .next t ∧ takeCommands cs s = .next t ∧
      (t.faultCause = .none → k = (hostWords cs).length ∧ t.Ready ∧ t.pc = s.pc + k)

/-- The block takes a whole command as one: from a ready state, it takes exactly the words of the command on the port
and is outside a payload again, or it has faulted at the header (the words stand in the stream at `pc`, log 1). -/
def Obligations.ReadyBlockTakesAWholeCommand : Prop :=
  ∀ (s : State) (h : HostCommand), s.Ready → h.whole = true → h.words <+: s.stream.drop s.pc →
    ∃ k t, 1 ≤ k ∧ k ≤ 10 ∧ runSteps k s = .next t ∧ t.pendActive = false ∧ t.resetIn = none ∧ t.stream = s.stream ∧
      ((t.faultCause = .none ∧ t.pc = s.pc + h.words.length) ∨ (t.faultCause ≠ .none ∧ t.pc = s.pc))

/-- A host may write words at any time but during reset: a step already possible takes the same effect, and the words
stay on the port (the stream is the model's own, log 1). While the block is being reset there is no such move. -/
def Obligations.HostWritesDoNotDisturbAStep : Prop :=
  (∀ (s t : State) (ws : List Word), s.resetIn = none → step s = .next t →
    ∃ s' t', s.hostWrite ws = some s' ∧ s' = { s with stream := s.stream ++ ws } ∧ t.hostWrite ws = some t' ∧
      step s' = .next t') ∧
  ∀ (s : State) (ws : List Word), s.resetIn ≠ none → s.hostWrite ws = none

/-- What a host may write, word by word. A word is accepted outside reset unless it would split another host's command;
no move does either. So a host that starts outside a command writes a whole one, and until its last word no other host
has a move (how the model keeps account of the hosts is its own, log 16). -/
def Obligations.HostsNeverSplitACommand : Prop :=
  (∀ (p : SharedPort) (host : HostAgent) (w : Word),
    (p.write host w = none ↔ p.block.resetIn ≠ none ∨ (p.owed ≠ 0 ∧ p.writer ≠ some host)) ∧
    ∀ q, p.write host w = some q → q.writer = some host ∧ q.block = { p.block with stream := p.block.stream ++ [w] }) ∧
  ∀ (p : SharedPort) (host : HostAgent) (h : HostCommand), p.block.resetIn = none → p.owed = 0 → h.whole = true →
    (∃ q, p.writeWords host h.words = some q ∧ q.owed = 0 ∧
      q.block = { p.block with stream := p.block.stream ++ h.words }) ∧
    ∀ n, 0 < n → n < h.words.length → ∃ q, p.writeWords host (h.words.take n) = some q ∧
      ∀ (other : HostAgent) (w : Word), other ≠ host → q.write other w = none
end

