-- ==== Sys2Proof/Laws/Decode.lean ====
section
/-! SUPPORT. The header word by its bits and fields (spec/30_encoding.md R71), the opcode map (R75), and the decoder by
cases (R76). -/

namespace Sys2Proof

/-- Each bit of a header word belongs to one field (R71). -/
theorem packHeader_getLsbD (op a y x : Nibble) (z p : Byte) (i : Nat) :
    (packHeader op a y x z p).getLsbD i =
      if i < 8 then p.getLsbD i else if i < 16 then z.getLsbD (i - 8) else if i < 20 then x.getLsbD (i - 16)
      else if i < 24 then y.getLsbD (i - 20) else if i < 28 then a.getLsbD (i - 24) else op.getLsbD (i - 28) := by
  have h : packHeader op a y x z p = op ++ a ++ y ++ x ++ z ++ p := rfl
  rw [h]
  simp only [BitVec.getLsbD_append]
  split_ifs <;> first | rfl | omega

@[simp] theorem fieldOP_packHeader (op a y x : Nibble) (z p : Byte) : fieldOP (packHeader op a y x z p) = op := by
  apply BitVec.eq_of_getLsbD_eq; intro i hi
  simp only [fieldOP, BitVec.getLsbD_extractLsb', packHeader_getLsbD, hi]
  interval_cases i <;> simp

@[simp] theorem fieldA_packHeader (op a y x : Nibble) (z p : Byte) : fieldA (packHeader op a y x z p) = a := by
  apply BitVec.eq_of_getLsbD_eq; intro i hi
  simp only [fieldA, BitVec.getLsbD_extractLsb', packHeader_getLsbD, hi]
  interval_cases i <;> simp

@[simp] theorem fieldY_packHeader (op a y x : Nibble) (z p : Byte) : fieldY (packHeader op a y x z p) = y := by
  apply BitVec.eq_of_getLsbD_eq; intro i hi
  simp only [fieldY, BitVec.getLsbD_extractLsb', packHeader_getLsbD, hi]
  interval_cases i <;> simp

@[simp] theorem fieldX_packHeader (op a y x : Nibble) (z p : Byte) : fieldX (packHeader op a y x z p) = x := by
  apply BitVec.eq_of_getLsbD_eq; intro i hi
  simp only [fieldX, BitVec.getLsbD_extractLsb', packHeader_getLsbD, hi]
  interval_cases i <;> simp

@[simp] theorem fieldP_packHeader (op a y x : Nibble) (z p : Byte) : fieldP (packHeader op a y x z p) = p := by
  apply BitVec.eq_of_getLsbD_eq; intro i hi
  simp only [fieldP, BitVec.getLsbD_extractLsb', packHeader_getLsbD, hi]
  interval_cases i <;> simp

/-- The opcode map reads back what it writes (R75). -/
@[simp] theorem ofValue_value (o : Opcode) : Opcode.ofValue o.value = some o := by cases o <;> rfl

/-- An OP value selects at most one command (R75). -/
theorem ofValue_eq_some {op : Nibble} {o : Opcode} : Opcode.ofValue op = some o ↔ op = o.value := by
  constructor
  · revert op; cases o <;> decide
  · rintro rfl; exact ofValue_value o

/-- The fixed bits of a row hold its OP value (R75). -/
@[simp] theorem fieldOP_fixedBits (o : Opcode) : fieldOP o.fixedBits = o.value := by cases o <;> decide

/-- The mask of a row covers the whole OP field (R72). -/
@[simp] theorem fieldOP_mask (o : Opcode) : fieldOP o.mask = 0xF#4 := by cases o <;> decide

/-- What decoding can answer (R76). -/
theorem decode_eq_ok {w : Word} {i : Instr} :
    decode w = .ok i ↔ ∃ o : Opcode, fieldOP w = o.value ∧ w &&& o.mask = o.fixedBits ∧ i = o.instr w := by
  unfold decode
  constructor
  · intro h
    split at h
    · simp at h
    · rename_i o ho
      split at h
      · rename_i hm
        injection h with h
        exact ⟨o, ofValue_eq_some.mp ho, hm, h.symm⟩
      · simp at h
  · rintro ⟨o, ho, hm, rfl⟩
    simp [ho, hm]

/-- The command that a row's header decodes to has the row's opcode. -/
@[simp] theorem opcode_instr (o : Opcode) (w : Word) : (o.instr w).opcode = o := by cases o <;> rfl

end Sys2Proof
end

