-- ==== Sys2Proof/Laws/State.lean ====
section
/-! SUPPORT. One lemma for each field of the state under each update, true by `rfl` or by unfolding the update once (`rfl` would
evaluate the 36 cells of `setGrid`). -/

namespace Sys2Proof.Machine

open Sys2Proof

variable (s : State)

/-! `State.raise` -/

@[simp] theorem raise_cells (c : FaultCause) : (s.raise c).cells = s.cells := rfl
@[simp] theorem raise_defined (c : FaultCause) : (s.raise c).defined = s.defined := rfl
@[simp] theorem raise_init (c : FaultCause) : (s.raise c).init = s.init := rfl
@[simp] theorem raise_bright (c : FaultCause) : (s.raise c).bright = s.bright := rfl
@[simp] theorem raise_brightDef (c : FaultCause) : (s.raise c).brightDef = s.brightDef := rfl
@[simp] theorem raise_faultCause (c : FaultCause) : (s.raise c).faultCause = c := rfl
@[simp] theorem raise_pendActive (c : FaultCause) : (s.raise c).pendActive = s.pendActive := rfl
@[simp] theorem raise_pendCount (c : FaultCause) : (s.raise c).pendCount = s.pendCount := rfl
@[simp] theorem raise_pendWords (c : FaultCause) : (s.raise c).pendWords = s.pendWords := rfl
@[simp] theorem raise_pc (c : FaultCause) : (s.raise c).pc = s.pc := rfl
@[simp] theorem raise_trace (c : FaultCause) : (s.raise c).trace = s.trace := rfl
@[simp] theorem raise_stream (c : FaultCause) : (s.raise c).stream = s.stream := rfl
@[simp] theorem raise_resetIn (c : FaultCause) : (s.raise c).resetIn = s.resetIn := rfl

/-! `State.advance` -/

@[simp] theorem advance_cells : (s.advance).cells = s.cells := rfl
@[simp] theorem advance_defined : (s.advance).defined = s.defined := rfl
@[simp] theorem advance_init : (s.advance).init = s.init := rfl
@[simp] theorem advance_bright : (s.advance).bright = s.bright := rfl
@[simp] theorem advance_brightDef : (s.advance).brightDef = s.brightDef := rfl
@[simp] theorem advance_faultCause : (s.advance).faultCause = s.faultCause := rfl
@[simp] theorem advance_pendActive : (s.advance).pendActive = s.pendActive := rfl
@[simp] theorem advance_pendCount : (s.advance).pendCount = s.pendCount := rfl
@[simp] theorem advance_pendWords : (s.advance).pendWords = s.pendWords := rfl
@[simp] theorem advance_pc : (s.advance).pc = s.pc + 1 := rfl
@[simp] theorem advance_trace : (s.advance).trace = s.trace := rfl
@[simp] theorem advance_stream : (s.advance).stream = s.stream := rfl
@[simp] theorem advance_resetIn : (s.advance).resetIn = s.resetIn := rfl

/-! `State.emit` -/

@[simp] theorem emit_cells (rs : List Record) : (s.emit rs).cells = s.cells := rfl
@[simp] theorem emit_defined (rs : List Record) : (s.emit rs).defined = s.defined := rfl
@[simp] theorem emit_init (rs : List Record) : (s.emit rs).init = s.init := rfl
@[simp] theorem emit_bright (rs : List Record) : (s.emit rs).bright = s.bright := rfl
@[simp] theorem emit_brightDef (rs : List Record) : (s.emit rs).brightDef = s.brightDef := rfl
@[simp] theorem emit_faultCause (rs : List Record) : (s.emit rs).faultCause = s.faultCause := rfl
@[simp] theorem emit_pendActive (rs : List Record) : (s.emit rs).pendActive = s.pendActive := rfl
@[simp] theorem emit_pendCount (rs : List Record) : (s.emit rs).pendCount = s.pendCount := rfl
@[simp] theorem emit_pendWords (rs : List Record) : (s.emit rs).pendWords = s.pendWords := rfl
@[simp] theorem emit_pc (rs : List Record) : (s.emit rs).pc = s.pc := rfl
@[simp] theorem emit_trace (rs : List Record) : (s.emit rs).trace = s.trace ++ rs := rfl
@[simp] theorem emit_stream (rs : List Record) : (s.emit rs).stream = s.stream := rfl
@[simp] theorem emit_resetIn (rs : List Record) : (s.emit rs).resetIn = s.resetIn := rfl

/-! `State.setCell` -/

@[simp] theorem setCell_cells (y x : Coord) (v : Byte) : (s.setCell y x v).cells = s.cells.set (cellIx y x).val v := rfl
@[simp] theorem setCell_defined (y x : Coord) (v : Byte) : (s.setCell y x v).defined = s.defined.set (cellIx y x).val true := rfl
@[simp] theorem setCell_init (y x : Coord) (v : Byte) : (s.setCell y x v).init = s.init := rfl
@[simp] theorem setCell_bright (y x : Coord) (v : Byte) : (s.setCell y x v).bright = s.bright := rfl
@[simp] theorem setCell_brightDef (y x : Coord) (v : Byte) : (s.setCell y x v).brightDef = s.brightDef := rfl
@[simp] theorem setCell_faultCause (y x : Coord) (v : Byte) : (s.setCell y x v).faultCause = s.faultCause := rfl
@[simp] theorem setCell_pendActive (y x : Coord) (v : Byte) : (s.setCell y x v).pendActive = s.pendActive := rfl
@[simp] theorem setCell_pendCount (y x : Coord) (v : Byte) : (s.setCell y x v).pendCount = s.pendCount := rfl
@[simp] theorem setCell_pendWords (y x : Coord) (v : Byte) : (s.setCell y x v).pendWords = s.pendWords := rfl
@[simp] theorem setCell_pc (y x : Coord) (v : Byte) : (s.setCell y x v).pc = s.pc := rfl
@[simp] theorem setCell_trace (y x : Coord) (v : Byte) : (s.setCell y x v).trace = s.trace := rfl
@[simp] theorem setCell_stream (y x : Coord) (v : Byte) : (s.setCell y x v).stream = s.stream := rfl
@[simp] theorem setCell_resetIn (y x : Coord) (v : Byte) : (s.setCell y x v).resetIn = s.resetIn := rfl

/-! `State.setGrid` -/

@[simp] theorem setGrid_cells (f : Coord → Coord → Byte) : (s.setGrid f).cells = Vector.ofFn fun i => f (rowOf i) (colOf i) := by simp only [State.setGrid]
@[simp] theorem setGrid_defined (f : Coord → Coord → Byte) : (s.setGrid f).defined = Vector.replicate 36 true := by simp only [State.setGrid]
@[simp] theorem setGrid_init (f : Coord → Coord → Byte) : (s.setGrid f).init = s.init := by simp only [State.setGrid]
@[simp] theorem setGrid_bright (f : Coord → Coord → Byte) : (s.setGrid f).bright = s.bright := by simp only [State.setGrid]
@[simp] theorem setGrid_brightDef (f : Coord → Coord → Byte) : (s.setGrid f).brightDef = s.brightDef := by simp only [State.setGrid]
@[simp] theorem setGrid_faultCause (f : Coord → Coord → Byte) : (s.setGrid f).faultCause = s.faultCause := by simp only [State.setGrid]
@[simp] theorem setGrid_pendActive (f : Coord → Coord → Byte) : (s.setGrid f).pendActive = s.pendActive := by simp only [State.setGrid]
@[simp] theorem setGrid_pendCount (f : Coord → Coord → Byte) : (s.setGrid f).pendCount = s.pendCount := by simp only [State.setGrid]
@[simp] theorem setGrid_pendWords (f : Coord → Coord → Byte) : (s.setGrid f).pendWords = s.pendWords := by simp only [State.setGrid]
@[simp] theorem setGrid_pc (f : Coord → Coord → Byte) : (s.setGrid f).pc = s.pc := by simp only [State.setGrid]
@[simp] theorem setGrid_trace (f : Coord → Coord → Byte) : (s.setGrid f).trace = s.trace := by simp only [State.setGrid]
@[simp] theorem setGrid_stream (f : Coord → Coord → Byte) : (s.setGrid f).stream = s.stream := by simp only [State.setGrid]
@[simp] theorem setGrid_resetIn (f : Coord → Coord → Byte) : (s.setGrid f).resetIn = s.resetIn := by simp only [State.setGrid]

/-! `State.storePayload` -/

@[simp] theorem storePayload_cells (w : Word) : (s.storePayload w).cells = s.cells := rfl
@[simp] theorem storePayload_defined (w : Word) : (s.storePayload w).defined = s.defined := rfl
@[simp] theorem storePayload_init (w : Word) : (s.storePayload w).init = s.init := rfl
@[simp] theorem storePayload_bright (w : Word) : (s.storePayload w).bright = s.bright := rfl
@[simp] theorem storePayload_brightDef (w : Word) : (s.storePayload w).brightDef = s.brightDef := rfl
@[simp] theorem storePayload_faultCause (w : Word) : (s.storePayload w).faultCause = s.faultCause := rfl
@[simp] theorem storePayload_pendActive (w : Word) : (s.storePayload w).pendActive = s.pendActive := rfl
@[simp] theorem storePayload_pendCount (w : Word) : (s.storePayload w).pendCount = s.pendCount := rfl
@[simp] theorem storePayload_pendWords (w : Word) : (s.storePayload w).pendWords = s.pendWords.set s.pendCount.val w := rfl
@[simp] theorem storePayload_pc (w : Word) : (s.storePayload w).pc = s.pc := rfl
@[simp] theorem storePayload_trace (w : Word) : (s.storePayload w).trace = s.trace := rfl
@[simp] theorem storePayload_stream (w : Word) : (s.storePayload w).stream = s.stream := rfl
@[simp] theorem storePayload_resetIn (w : Word) : (s.storePayload w).resetIn = s.resetIn := rfl

/-! `State.loadPayload` -/

@[simp] theorem loadPayload_cells : (s.loadPayload).cells = Vector.ofFn fun i => payloadByte s.pendWords (cellIx (rowOf i) (colOf i)) := by simp only [State.loadPayload, State.setGrid]
@[simp] theorem loadPayload_defined : (s.loadPayload).defined = Vector.replicate 36 true := by simp only [State.loadPayload, State.setGrid]
@[simp] theorem loadPayload_init : (s.loadPayload).init = s.init := by simp only [State.loadPayload, State.setGrid]
@[simp] theorem loadPayload_bright : (s.loadPayload).bright = s.bright := by simp only [State.loadPayload, State.setGrid]
@[simp] theorem loadPayload_brightDef : (s.loadPayload).brightDef = s.brightDef := by simp only [State.loadPayload, State.setGrid]
@[simp] theorem loadPayload_faultCause : (s.loadPayload).faultCause = s.faultCause := by simp only [State.loadPayload, State.setGrid]
@[simp] theorem loadPayload_pendActive : (s.loadPayload).pendActive = false := by simp only [State.loadPayload, State.setGrid]
@[simp] theorem loadPayload_pendCount : (s.loadPayload).pendCount = 0 := by simp only [State.loadPayload, State.setGrid]
@[simp] theorem loadPayload_pendWords : (s.loadPayload).pendWords = s.pendWords := by simp only [State.loadPayload, State.setGrid]
@[simp] theorem loadPayload_pc : (s.loadPayload).pc = s.pc := by simp only [State.loadPayload, State.setGrid]
@[simp] theorem loadPayload_trace : (s.loadPayload).trace = s.trace := by simp only [State.loadPayload, State.setGrid]
@[simp] theorem loadPayload_stream : (s.loadPayload).stream = s.stream := by simp only [State.loadPayload, State.setGrid]
@[simp] theorem loadPayload_resetIn : (s.loadPayload).resetIn = s.resetIn := by simp only [State.loadPayload, State.setGrid]

/-! `State.acceptLevel` -/

@[simp] theorem acceptLevel_cells (c : Config) (level : Nibble) : (s.acceptLevel c level).cells = s.cells := rfl
@[simp] theorem acceptLevel_defined (c : Config) (level : Nibble) : (s.acceptLevel c level).defined = s.defined := rfl
@[simp] theorem acceptLevel_init (c : Config) (level : Nibble) : (s.acceptLevel c level).init = s.init := rfl
@[simp] theorem acceptLevel_bright (c : Config) (level : Nibble) : (s.acceptLevel c level).bright = level := rfl
@[simp] theorem acceptLevel_brightDef (c : Config) (level : Nibble) : (s.acceptLevel c level).brightDef = true := rfl
@[simp] theorem acceptLevel_faultCause (c : Config) (level : Nibble) : (s.acceptLevel c level).faultCause = s.faultCause := rfl
@[simp] theorem acceptLevel_pendActive (c : Config) (level : Nibble) : (s.acceptLevel c level).pendActive = s.pendActive := rfl
@[simp] theorem acceptLevel_pendCount (c : Config) (level : Nibble) : (s.acceptLevel c level).pendCount = s.pendCount := rfl
@[simp] theorem acceptLevel_pendWords (c : Config) (level : Nibble) : (s.acceptLevel c level).pendWords = s.pendWords := rfl
@[simp] theorem acceptLevel_pc (c : Config) (level : Nibble) : (s.acceptLevel c level).pc = s.pc := rfl
@[simp] theorem acceptLevel_trace (c : Config) (level : Nibble) : (s.acceptLevel c level).trace = s.trace ++ brightnessRecords c level := rfl
@[simp] theorem acceptLevel_stream (c : Config) (level : Nibble) : (s.acceptLevel c level).stream = s.stream := rfl
@[simp] theorem acceptLevel_resetIn (c : Config) (level : Nibble) : (s.acceptLevel c level).resetIn = s.resetIn := rfl

/-! `State.appendWords` -/

@[simp] theorem appendWords_cells (ws : List Word) : (s.appendWords ws).cells = s.cells := rfl
@[simp] theorem appendWords_defined (ws : List Word) : (s.appendWords ws).defined = s.defined := rfl
@[simp] theorem appendWords_init (ws : List Word) : (s.appendWords ws).init = s.init := rfl
@[simp] theorem appendWords_bright (ws : List Word) : (s.appendWords ws).bright = s.bright := rfl
@[simp] theorem appendWords_brightDef (ws : List Word) : (s.appendWords ws).brightDef = s.brightDef := rfl
@[simp] theorem appendWords_faultCause (ws : List Word) : (s.appendWords ws).faultCause = s.faultCause := rfl
@[simp] theorem appendWords_pendActive (ws : List Word) : (s.appendWords ws).pendActive = s.pendActive := rfl
@[simp] theorem appendWords_pendCount (ws : List Word) : (s.appendWords ws).pendCount = s.pendCount := rfl
@[simp] theorem appendWords_pendWords (ws : List Word) : (s.appendWords ws).pendWords = s.pendWords := rfl
@[simp] theorem appendWords_pc (ws : List Word) : (s.appendWords ws).pc = s.pc := rfl
@[simp] theorem appendWords_trace (ws : List Word) : (s.appendWords ws).trace = s.trace := rfl
@[simp] theorem appendWords_stream (ws : List Word) : (s.appendWords ws).stream = s.stream ++ ws := rfl
@[simp] theorem appendWords_resetIn (ws : List Word) : (s.appendWords ws).resetIn = s.resetIn := rfl

/-! `State.hostWrite` -/

@[simp] theorem hostWrite_of_running {s : State} (h : s.resetIn = none) (ws : List Word) :
    s.hostWrite ws = some (s.appendWords ws) := by simp [State.hostWrite, h]

@[simp] theorem hostWrite_of_reset {s : State} {presented : List Word} (h : s.resetIn = some presented)
    (ws : List Word) : s.hostWrite ws = none := by simp [State.hostWrite, h]

/-! `State.assertReset` -/

@[simp] theorem assertReset_cells (ws : List Word) : (s.assertReset ws).cells = s.cells := rfl
@[simp] theorem assertReset_defined (ws : List Word) : (s.assertReset ws).defined = s.defined := rfl
@[simp] theorem assertReset_init (ws : List Word) : (s.assertReset ws).init = s.init := rfl
@[simp] theorem assertReset_bright (ws : List Word) : (s.assertReset ws).bright = s.bright := rfl
@[simp] theorem assertReset_brightDef (ws : List Word) : (s.assertReset ws).brightDef = s.brightDef := rfl
@[simp] theorem assertReset_faultCause (ws : List Word) : (s.assertReset ws).faultCause = s.faultCause := rfl
@[simp] theorem assertReset_pendActive (ws : List Word) : (s.assertReset ws).pendActive = s.pendActive := rfl
@[simp] theorem assertReset_pendCount (ws : List Word) : (s.assertReset ws).pendCount = s.pendCount := rfl
@[simp] theorem assertReset_pendWords (ws : List Word) : (s.assertReset ws).pendWords = s.pendWords := rfl
@[simp] theorem assertReset_pc (ws : List Word) : (s.assertReset ws).pc = s.pc := rfl
@[simp] theorem assertReset_trace (ws : List Word) : (s.assertReset ws).trace = s.trace := rfl
@[simp] theorem assertReset_stream (ws : List Word) : (s.assertReset ws).stream = s.stream := rfl
@[simp] theorem assertReset_resetIn (ws : List Word) : (s.assertReset ws).resetIn = some ws := rfl

/-! `State.afterReset` -/

@[simp] theorem afterReset_cells (ws : List Word) : (State.afterReset s ws).cells = s.cells := rfl
@[simp] theorem afterReset_defined (ws : List Word) : (State.afterReset s ws).defined = s.defined := rfl
@[simp] theorem afterReset_init (ws : List Word) : (State.afterReset s ws).init = s.init := rfl
@[simp] theorem afterReset_bright (ws : List Word) : (State.afterReset s ws).bright = s.bright := rfl
@[simp] theorem afterReset_brightDef (ws : List Word) : (State.afterReset s ws).brightDef = s.brightDef := rfl
@[simp] theorem afterReset_faultCause (ws : List Word) : (State.afterReset s ws).faultCause = s.faultCause := rfl
@[simp] theorem afterReset_pendActive (ws : List Word) : (State.afterReset s ws).pendActive = s.pendActive := rfl
@[simp] theorem afterReset_pendCount (ws : List Word) : (State.afterReset s ws).pendCount = s.pendCount := rfl
@[simp] theorem afterReset_pendWords (ws : List Word) : (State.afterReset s ws).pendWords = s.pendWords := rfl
@[simp] theorem afterReset_pc (ws : List Word) : (State.afterReset s ws).pc = s.pc := rfl
@[simp] theorem afterReset_trace (ws : List Word) : (State.afterReset s ws).trace = s.trace := rfl
@[simp] theorem afterReset_stream (ws : List Word) : (State.afterReset s ws).stream = ws := rfl
@[simp] theorem afterReset_resetIn (ws : List Word) : (State.afterReset s ws).resetIn = s.resetIn := rfl

/-! The state after reset (10_state.md R35) -/

@[simp] theorem resetWith_cells (g : GridReset) : (State.resetWith g).cells = Vector.replicate 36 0#8 := rfl
@[simp] theorem resetWith_init (g : GridReset) : (State.resetWith g).init = false := rfl
@[simp] theorem resetWith_bright (g : GridReset) : (State.resetWith g).bright = 0#4 := rfl
@[simp] theorem resetWith_brightDef (g : GridReset) : (State.resetWith g).brightDef = false := rfl
@[simp] theorem resetWith_faultCause (g : GridReset) : (State.resetWith g).faultCause = .none := rfl
@[simp] theorem resetWith_pendActive (g : GridReset) : (State.resetWith g).pendActive = false := rfl
@[simp] theorem resetWith_pendCount (g : GridReset) : (State.resetWith g).pendCount = 0 := rfl
@[simp] theorem resetWith_pendWords (g : GridReset) : (State.resetWith g).pendWords = Vector.replicate 9 0#32 := rfl
@[simp] theorem resetWith_pc (g : GridReset) : (State.resetWith g).pc = 0 := rfl
@[simp] theorem resetWith_trace (g : GridReset) : (State.resetWith g).trace = [] := rfl
@[simp] theorem resetWith_stream (g : GridReset) : (State.resetWith g).stream = [] := rfl
@[simp] theorem resetWith_resetIn (g : GridReset) : (State.resetWith g).resetIn = none := rfl
@[simp] theorem resetWith_undef_defined : (State.resetWith .undef).defined = Vector.replicate 36 false := rfl
@[simp] theorem resetWith_zero_defined : (State.resetWith .zero).defined = Vector.replicate 36 true := rfl
theorem reset_eq_resetWith_undef : State.reset = State.resetWith .undef := rfl

end Sys2Proof.Machine
end

