-- ==== Sys2Proof/Laws/Ops.lean ====
section
/-! SUPPORT. For each shared operation, what it can do, said once. -/

namespace Sys2Proof.Machine

open Sys2Proof

/-! Serial order (20_memory.md R51) -/

@[simp] theorem rowOf_cellIx (y x : Coord) : rowOf (cellIx y x) = y := by
  apply Fin.ext; simp only [rowOf, cellIx]; omega

@[simp] theorem colOf_cellIx (y x : Coord) : colOf (cellIx y x) = x := by
  apply Fin.ext; simp only [colOf, cellIx]; omega

@[simp] theorem cellIx_rowOf_colOf (i : Fin 36) : cellIx (rowOf i) (colOf i) = i := by
  apply Fin.ext; simp only [rowOf, colOf, cellIx]; omega

theorem cellIx_inj {y x y' x' : Coord} : cellIx y x = cellIx y' x' ↔ y = y' ∧ x = x' := by
  constructor
  · intro h
    exact ⟨by rw [← rowOf_cellIx y x, h, rowOf_cellIx], by rw [← colOf_cellIx y x, h, colOf_cellIx]⟩
  · rintro ⟨rfl, rfl⟩; rfl

/-- Every cell is `G[y][x]` for some row and column. -/
theorem forall_ix_iff {P : Fin 36 → Prop} : (∀ i, P i) ↔ ∀ y x, P (cellIx y x) :=
  ⟨fun h y x => h _, fun h i => by rw [← cellIx_rowOf_colOf i]; exact h _ _⟩

theorem exists_ix_iff {P : Fin 36 → Prop} : (∃ i, P i) ↔ ∃ y x, P (cellIx y x) :=
  ⟨fun ⟨i, h⟩ => ⟨rowOf i, colOf i, by rwa [cellIx_rowOf_colOf]⟩, fun ⟨y, x, h⟩ => ⟨_, h⟩⟩

/-- Two grids are equal when they agree in every cell. -/
theorem gridBytes_ext {g g' : GridBytes} (h : ∀ i : Fin 36, g[i] = g'[i]) : g = g' :=
  Vector.ext fun i hi => h ⟨i, hi⟩

/-! Reads after writes -/

@[simp] theorem setGrid_getElem (s : State) (f : Coord → Coord → Byte) (i : Fin 36) :
    (s.setGrid f).cells[i] = f (rowOf i) (colOf i) := by simp

@[simp] theorem setGrid_cell (s : State) (f : Coord → Coord → Byte) (y x : Coord) :
    (s.setGrid f).cell y x = f y x := by simp [State.cell]

@[simp] theorem setGrid_allDefined (s : State) (f : Coord → Coord → Byte) : (s.setGrid f).AllDefined := by
  intro i; simp

@[simp] theorem setCell_cell_same (s : State) (y x : Coord) (v : Byte) : (s.setCell y x v).cell y x = v := by
  simp [State.cell]

theorem setCell_cell_other (s : State) {y x y' x' : Coord} (v : Byte) (h : ¬ (y' = y ∧ x' = x)) :
    (s.setCell y x v).cell y' x' = s.cell y' x' := by
  have hne : (cellIx y x).val ≠ (cellIx y' x').val := fun e =>
    h (by have := cellIx_inj.mp (Fin.ext e); exact ⟨this.1.symm, this.2.symm⟩)
  simp [State.cell, hne]

@[simp] theorem setCell_isDefined_same (s : State) (y x : Coord) (v : Byte) :
    (s.setCell y x v).isDefined y x = true := by simp [State.isDefined]

theorem setCell_isDefined_other (s : State) {y x y' x' : Coord} (v : Byte) (h : ¬ (y' = y ∧ x' = x)) :
    (s.setCell y x v).isDefined y' x' = s.isDefined y' x' := by
  have hne : (cellIx y x).val ≠ (cellIx y' x').val := fun e =>
    h (by have := cellIx_inj.mp (Fin.ext e); exact ⟨this.1.symm, this.2.symm⟩)
  simp [State.isDefined, hne]

/-- `GridByte(i)` is cell `i`: the register file is held in serial order. -/
@[simp] theorem gridBytes_eq_cells (s : State) : s.gridBytes = s.cells :=
  gridBytes_ext fun i => by simp [State.gridBytes, State.cell]

theorem allDefined_iff (s : State) : s.AllDefined ↔ ∀ y x, s.isDefined y x = true := forall_ix_iff

theorem not_allDefined_iff (s : State) : ¬ s.AllDefined ↔ ∃ y x, s.isDefined y x = false := by
  rw [allDefined_iff]; simp

/-! The checks of a command -/

@[simp] theorem requireInit_of_init {s : State} (h : s.init = true) (k : State) : s.requireInit k = k := by
  simp [State.requireInit, h]

@[simp] theorem requireInit_of_not_init {s : State} (h : s.init = false) (k : State) :
    s.requireInit k = s.raise .notInitialized := by simp [State.requireInit, h]

@[simp] theorem requireGrid_of_defined {s : State} (h : s.AllDefined) (k : State) : s.requireGrid k = k := by
  simp only [State.requireGrid, if_pos h]

@[simp] theorem requireGrid_of_undefined {s : State} (h : ¬ s.AllDefined) (k : State) :
    s.requireGrid k = s.raise .undefinedCell := by simp only [State.requireGrid, if_neg h]

@[simp] theorem requireCell_of_defined {s : State} {y x : Coord} (h : s.isDefined y x = true) (k : Byte → State) :
    s.requireCell y x k = k (s.cell y x) := by simp [State.requireCell, h]

@[simp] theorem requireCell_of_undefined {s : State} {y x : Coord} (h : s.isDefined y x = false) (k : Byte → State) :
    s.requireCell y x k = s.raise .undefinedCell := by simp [State.requireCell, h]

theorem coord?_eq_some {v : Nibble} {c : Coord} : coord? v = some c ↔ v.toNat = c.val := by
  unfold coord?
  split
  · simp [Fin.ext_iff]
  · constructor
    · simp
    · intro h; have := c.isLt; omega

theorem coord?_eq_none {v : Nibble} : coord? v = none ↔ 6 ≤ v.toNat := by
  unfold coord?
  split <;> simp <;> omega

/-- The cell a command names is in the grid exactly when both fields are below 6 (60_exceptions.md R232). -/
theorem cellOf_eq_some {x y : Nibble} {cy cx : Coord} :
    cellOf x y = some (cy, cx) ↔ x.toNat = cx.val ∧ y.toNat = cy.val := by
  rw [← coord?_eq_some, ← coord?_eq_some]
  unfold cellOf
  constructor
  · intro h
    split at h
    · rename_i h1 h2; simp at h; exact ⟨by rw [h1, h.2], by rw [h2, h.1]⟩
    · simp at h
  · rintro ⟨h1, h2⟩; simp [h1, h2]

theorem cellOf_eq_none {x y : Nibble} : cellOf x y = none ↔ 6 ≤ x.toNat ∨ 6 ≤ y.toNat := by
  rw [← coord?_eq_none, ← coord?_eq_none]
  unfold cellOf
  cases coord? x <;> cases coord? y <;> simp

theorem requireCoord_of_cell {s : State} {x y : Nibble} {cy cx : Coord} (h : cellOf x y = some (cy, cx))
    (k : Coord → Coord → State) : s.requireCoord x y k = k cy cx := by simp [State.requireCoord, h]

theorem requireCoord_of_bad {s : State} {x y : Nibble} (h : cellOf x y = none) (k : Coord → Coord → State) :
    s.requireCoord x y k = s.raise .coordRange := by simp [State.requireCoord, h]

/-- What the initialisation check can do. -/
theorem requireInit_cases (s k : State) :
    (s.init = true ∧ s.requireInit k = k) ∨ (s.init = false ∧ s.requireInit k = s.raise .notInitialized) := by
  cases h : s.init <;> simp [h]

/-- What the coordinate check can do. -/
theorem requireCoord_cases (s : State) (x y : Nibble) (k : Coord → Coord → State) :
    (∃ cy cx, cellOf x y = some (cy, cx) ∧ s.requireCoord x y k = k cy cx) ∨
      (cellOf x y = none ∧ s.requireCoord x y k = s.raise .coordRange) := by
  cases h : cellOf x y with
  | none => exact .inr ⟨rfl, requireCoord_of_bad h k⟩
  | some p => exact .inl ⟨p.1, p.2, rfl, requireCoord_of_cell h k⟩

/-- What the check of one cell can do. -/
theorem requireCell_cases (s : State) (y x : Coord) (k : Byte → State) :
    (s.isDefined y x = true ∧ s.requireCell y x k = k (s.cell y x)) ∨
      (s.isDefined y x = false ∧ s.requireCell y x k = s.raise .undefinedCell) := by
  cases h : s.isDefined y x <;> simp [h]

/-- What the check of the whole grid can do. -/
theorem requireGrid_cases (s k : State) :
    (s.AllDefined ∧ s.requireGrid k = k) ∨ (¬ s.AllDefined ∧ s.requireGrid k = s.raise .undefinedCell) := by
  by_cases h : s.AllDefined
  · exact .inl ⟨h, requireGrid_of_defined h k⟩
  · exact .inr ⟨h, requireGrid_of_undefined h k⟩

/-! Payload words (41_bulk_transfer.md R131) -/

theorem takePayload_of_last {s : State} (w : Word) (h : s.pendCount.val = 8) :
    takePayload w s = ((s.storePayload w).advance).loadPayload := by simp [takePayload, h]

theorem takePayload_of_not_last {s : State} (w : Word) (h : s.pendCount.val ≠ 8) :
    takePayload w s =
      { (s.storePayload w).advance with pendCount := ⟨s.pendCount.val + 1, by omega⟩ } := by simp [takePayload, h]

@[simp] theorem unpackPayload_getElem (ws : Vector Word 9) (i : Fin 36) :
    (unpackPayload ws)[i] = payloadByte ws i := by simp [unpackPayload]

@[simp] theorem loadPayload_getElem (s : State) (i : Fin 36) :
    s.loadPayload.cells[i] = payloadByte s.pendWords i := by simp

end Sys2Proof.Machine
end

