-- ==== Sys2Proof/Laws/Encoder.lean ====
section
/-! SUPPORT. What the scatter of the encoder puts at one image bit, said once (spec/44_encoder.md R202, R205). -/

namespace Sys2Proof.Machine

open Sys2Proof

/-- Setting one image bit sets that bit and no other. -/
theorem setImageBit_getLsbD (img : Image) (k k' : Fin 16) (b b' : Nat) (hb : b < 8) (hb' : b' < 8) :
    ((setImageBit img k b)[k']).getLsbD b' = true ↔ ((img[k']).getLsbD b' = true ∨ (k = k' ∧ b = b')) := by
  unfold setImageBit
  by_cases hk : k = k'
  · subst hk
    have : (1#8 <<< b).getLsbD b' = true ↔ b = b' := by
      have key : ∀ b b' : Fin 8, (1#8 <<< b.val).getLsbD b'.val = true ↔ b.val = b'.val := by decide
      exact key ⟨b, hb⟩ ⟨b', hb'⟩
    simp only [Fin.getElem_fin, Vector.getElem_set_self, BitVec.getLsbD_or, Bool.or_eq_true, this, true_and]
  · have : k.val ≠ k'.val := fun h => hk (Fin.ext h)
    simp [this, hk]

/-- A loop whose every step can only set image bits sets the bits that one of its steps sets. -/
theorem foldl_image_getLsbD {α : Type} (f : Image → α → Image) (P : α → Fin 16 → Nat → Prop)
    (hf : ∀ img a (k : Fin 16) (b : Nat), b < 8 →
      (((f img a)[k]).getLsbD b = true ↔ ((img[k]).getLsbD b = true ∨ P a k b)))
    (l : List α) (img : Image) (k : Fin 16) (b : Nat) (hb : b < 8) :
    ((l.foldl f img)[k]).getLsbD b = true ↔ ((img[k]).getLsbD b = true ∨ ∃ a ∈ l, P a k b) := by
  induction l generalizing img with
  | nil => simp
  | cons a l ih =>
    rw [List.foldl_cons, ih, hf _ _ _ _ hb]
    simp only [List.mem_cons, exists_eq_or_imp]
    tauto

/-- An image bit is 1 exactly when some lit segment of the unit's two rows maps to it. -/
theorem imageOf_getLsbD (base : SlotBase) (g : GridBytes) (u : Fin 3) (k : Fin 16) (b : Nat) (hb : b < 8) :
    ((imageOf base g u)[k]).getLsbD b = true ↔ ∃ (r : Fin 2) (x : Coord) (p : Fin 8),
      segmentBit g[cellIx (unitRow u r) x] p = true ∧ imageByte p (slotOf base r x) = k ∧
        imageBit (slotOf base r x) = b := by
  have hs : ∀ r x (img : Image) (p : Fin 8) (k : Fin 16) (b : Nat), b < 8 →
      (((scatterSegment base g u img r x p)[k]).getLsbD b = true ↔ ((img[k]).getLsbD b = true ∨
        (segmentBit g[cellIx (unitRow u r) x] p = true ∧ imageByte p (slotOf base r x) = k ∧
          imageBit (slotOf base r x) = b))) := by
    intro r x img p k b hb
    unfold scatterSegment
    split
    · rw [setImageBit_getLsbD _ _ _ _ _ (by unfold imageBit; omega) hb]; tauto
    · tauto
  have h1 := fun r x => foldl_image_getLsbD (fun img p => scatterSegment base g u img r x p) _ (hs r x)
    (List.finRange 8)
  have h2 := fun r => foldl_image_getLsbD
    (fun img x => (List.finRange 8).foldl (fun img p => scatterSegment base g u img r x p) img) _
    (fun img x k b hb => h1 r x img k b hb) (List.finRange 6)
  have h3 := foldl_image_getLsbD
    (fun img r => (List.finRange 6).foldl
      (fun img x => (List.finRange 8).foldl (fun img p => scatterSegment base g u img r x p) img) img) _
    (fun img r k b hb => h2 r img k b hb) (List.finRange 2) (Vector.replicate 16 0x00#8) k b hb
  have h0 : ((Vector.replicate 16 0x00#8 : Image)[k]).getLsbD b = false := by simp
  rw [h0] at h3
  simp only [Bool.false_eq_true, false_or, List.mem_finRange, true_and] at h3
  exact h3

/-- The slot of a cell, as a number (R201). -/
theorem slotOf_val (base : SlotBase) (r : Fin 2) (x : Coord) :
    (slotOf base r x).val = (if r = 0 then 0 else base.toNat) + x.val := rfl

/-- Two cells of a unit never share a slot (R201). -/
theorem slotOf_inj (base : SlotBase) (r r' : Fin 2) (x x' : Coord) (h : slotOf base r x = slotOf base r' x') :
    r = r' ∧ x = x' := by
  have inj : ∀ (r r' : Fin 2) (x x' : Coord), slotOf base r x = slotOf base r' x' → r = r' ∧ x = x' := by
    cases base <;> decide
  exact inj _ _ _ _ h

end Sys2Proof.Machine
end

