-- ==== Sys2Proof/Laws/Step.lean ====
section
/-! SUPPORT. What a step can do, said once (spec/60_exceptions.md R238), and the configured machine at the device. -/

namespace Sys2Proof.Machine

open Sys2Proof

theorem faultCode_eq_zero (s : State) : s.faultCode = 0#3 ↔ s.faultCause = .none := by
  unfold State.faultCode; cases s.faultCause <;> simp [FaultCause.code]

theorem faulted_iff (s : State) : s.faulted = true ↔ s.faultCause ≠ .none := by
  simp [State.faulted, faultCode_eq_zero]

theorem faulted_eq_false (s : State) : s.faulted = false ↔ s.faultCause = .none := by
  simp [State.faulted, faultCode_eq_zero]

/-- Every command answers a next state, in every state: a fault is a next state with its cause written. -/
theorem exec_answers_next (i : Instr) (s : State) : ∃ t, exec i s = .next t := by
  cases i <;> exact ⟨_, rfl⟩

/-- A step that answers a next state is one of these four. -/
theorem portStep_cases {run : Instr → State → Result} {r s t : State} (h : portStep run r s = .next t) :
    (∃ ws, s.resetIn = some ws ∧ t = State.afterReset r ws) ∨
    (s.resetIn = none ∧ s.faultCause = .none ∧ ∃ w, s.nextWord = some w ∧
      ((s.pendActive = true ∧ t = takePayload w s) ∨
       (s.pendActive = false ∧ (∃ e, decode w = .error e) ∧ t = s.raise .illegalCommand) ∨
       (s.pendActive = false ∧ ∃ i, decode w = .ok i ∧ run i s = .next t))) := by
  unfold portStep at h
  split at h
  · rename_i ws hws
    injection h with h
    exact .inl ⟨ws, hws, h.symm⟩
  · rename_i hr
    refine .inr ⟨hr, ?_⟩
    split at h
    · simp at h
    · rename_i hf
      refine ⟨(faulted_eq_false s).mp (by simpa using hf), ?_⟩
      split at h
      · simp at h
      · rename_i w hw
        refine ⟨w, hw, ?_⟩
        unfold settleWord at h
        split at h
        · rename_i hp
          injection h with h
          exact .inl ⟨hp, h.symm⟩
        · rename_i hp
          have hp : s.pendActive = false := by simpa using hp
          unfold settleHeader at h
          split at h
          · rename_i i hi
            exact .inr (.inr ⟨hp, i, hi, h⟩)
          · rename_i e he
            injection h with h
            exact .inr (.inl ⟨hp, ⟨e, he⟩, h.symm⟩)

/-- `portStep_cases` for the device. -/
theorem step_cases {s t : State} (h : step s = .next t) :
    (∃ ws, s.resetIn = some ws ∧ t = State.afterReset State.reset ws) ∨
    (s.resetIn = none ∧ s.faultCause = .none ∧ ∃ w, s.nextWord = some w ∧
      ((s.pendActive = true ∧ t = takePayload w s) ∨
       (s.pendActive = false ∧ (∃ e, decode w = .error e) ∧ t = s.raise .illegalCommand) ∨
       (s.pendActive = false ∧ ∃ i, decode w = .ok i ∧ exec i s = .next t))) :=
  portStep_cases h

/-- `exec` is the configured meaning at the device's configuration. -/
theorem exec_eq_execWith (i : Instr) (s : State) : exec i s = execWith Config.device i s := by
  cases i <;> rfl

end Sys2Proof.Machine
end

