-- ==== Sys2Proof/Laws/Exec.lean ====
section
/-! SUPPORT. What a command can do, said once: it raises the first cause of spec/60_exceptions.md R238 that applies, or
it has its effect. -/

namespace Sys2Proof.Machine

open Sys2Proof

/-- The cell a cell command names, when its coordinates are legal. -/
def namedCell (x y : Nibble) : Coord × Coord := (cellOf x y).getD (0, 0)

/-- A cell command whose cell becomes `f` of its value. -/
def cellEffect (x y : Nibble) (f : Byte → Byte) (s : State) : State :=
  (s.setCell (namedCell x y).1 (namedCell x y).2 (f (s.cell (namedCell x y).1 (namedCell x y).2))).advance

/-- What a command does when none of its checks fails. -/
def commandEffect (c : Config) (i : Instr) (s : State) : State :=
  match i with
  | .init => ({ s with init := true }.emit [.busInit]).advance
  | .setp x y pat => cellEffect x y (fun _ => pat) s
  | .orp x y pat => cellEffect x y (fun v => v ||| pat) s
  | .andp x y pat => cellEffect x y (fun v => v &&& ~~~pat) s
  | .clr => (s.setGrid fun _ _ => 0x00#8).advance
  | .fill => (s.setGrid fun _ _ => 0xFF#8).advance
  | .rev => (s.setGrid fun y x => ~~~s.cell y x).advance
  | .setall => { s with pendActive := true, pendCount := 0 }.advance
  | .getall => (s.emit [.resp s.gridBytes]).advance
  | .metaNumber d =>
    (s.setGrid fun y x => (overlayAll c .normal (lutEntry c (digitIx d)) s.cells)[cellIx y x]).advance
  | .metaReverse d =>
    (s.setGrid fun y x => (overlayAll c .reverse (lutEntry c (digitIx d)) s.cells)[cellIx y x]).advance
  | .bright level =>
    (if levelLegal level then s.acceptLevel c (levelBits level) else s.emit [.logBrightnessRejected level]).advance
  | .update => (s.emit (displayRecords c s.cells)).advance

/-- Two effects that a check decides between, by the cause. -/
theorem next_if {s k t : State} {f : FaultCause} (h : f = .none ∧ t = k ∨ f ≠ .none ∧ t = s.raise f) :
    (.next t : Result) = .next (if f = .none then k else s.raise f) := by
  rcases h with ⟨h, rfl⟩ | ⟨h, rfl⟩ <;> simp [h]

theorem firstCause_of_not_init {i : Instr} {s : State} (hm : isMutator i = true) (h : s.init = false) :
    firstCause i s = .notInitialized := by simp [firstCause, hm, h]

/-- A command that reads the whole grid raises UNDEFINED_CELL exactly when the grid is not defined. -/
theorem firstCause_of_readsGrid {i : Instr} {s : State} (hr : readsGrid i = true)
    (hi : isMutator i = true → s.init = true) :
    firstCause i s = if s.AllDefined then .none else .undefinedCell := by
  have hc : ∀ y x, readsCell i y x = true := by cases i <;> simp_all [readsCell, readsGrid]
  have hb : coordBad i = false := by cases i <;> simp_all [coordBad, readsGrid]
  have h1 : ¬ (i = .init ∧ s.init = true) := by cases i <;> simp_all [readsGrid]
  have h2 : ¬ (isMutator i = true ∧ s.init = false) := fun h => by simp [hi h.1] at h
  simp only [firstCause, if_neg h1, if_neg h2, hb, hc, true_and]
  by_cases hd : s.AllDefined
  · have : ¬ ∃ y x, s.isDefined y x = false := fun h => (not_allDefined_iff s).mpr h hd
    simp [if_neg this, hd]
  · simp [(not_allDefined_iff s).mp hd, hd]

/-- A command that reads no cell and names none raises nothing but NOT_INITIALIZED. -/
theorem firstCause_of_no_read {i : Instr} {s : State} (hm : isMutator i = true)
    (hr : ∀ y x, readsCell i y x = false) (hb : coordBad i = false) (h : s.init = true) :
    firstCause i s = .none := by
  have h1 : i ≠ .init := by rintro rfl; simp [isMutator] at hm
  simp [firstCause, h1, h, hr, hb]

/-- A cell command in an out-of-range cell. -/
theorem firstCause_of_coordBad {i : Instr} {s : State} (hb : coordBad i = true) (h : s.init = true) :
    firstCause i s = .coordRange := by
  have h1 : i ≠ .init := by rintro rfl; simp [coordBad] at hb
  simp [firstCause, h1, h, hb]

theorem coordBad_iff {x y : Nibble} : (6 ≤ x.toNat || 6 ≤ y.toNat) = true ↔ cellOf x y = none := by
  rw [cellOf_eq_none]; simp

/-- The only cell that a cell command can read is the one it names. -/
theorem reads_named_cell {x y : Nibble} {cy cx : Coord} (h : cellOf x y = some (cy, cx)) (s : State) :
    (∃ y' x' : Coord, (x.toNat == x'.val && y.toNat == y'.val) = true ∧ s.isDefined y' x' = false) ↔
      s.isDefined cy cx = false := by
  obtain ⟨h1, h2⟩ := cellOf_eq_some.mp h
  constructor
  · rintro ⟨y', x', he, hd⟩
    simp only [Bool.and_eq_true, beq_iff_eq] at he
    have e1 : x' = cx := Fin.ext (by omega)
    have e2 : y' = cy := Fin.ext (by omega)
    rwa [e1, e2] at hd
  · intro hd
    exact ⟨cy, cx, by simp [h1, h2], hd⟩

/-- ORP and ANDP on a cell of the grid raise UNDEFINED_CELL exactly when it is not defined. -/
theorem firstCause_of_readsCell {i : Instr} {x y : Nibble} {cy cx : Coord} {s : State} (hm : isMutator i = true)
    (hb : coordBad i = (6 ≤ x.toNat || 6 ≤ y.toNat))
    (hr : ∀ y' x' : Coord, readsCell i y' x' = (x.toNat == x'.val && y.toNat == y'.val))
    (hc : cellOf x y = some (cy, cx)) (h : s.init = true) :
    firstCause i s = if s.isDefined cy cx = true then .none else .undefinedCell := by
  have h1 : i ≠ .init := by rintro rfl; simp [isMutator] at hm
  have hb' : coordBad i = false := by
    cases hv : coordBad i
    · rfl
    · rw [hb] at hv; rw [coordBad_iff.mp hv] at hc; simp at hc
  have h2 : ¬ (isMutator i = true ∧ s.init = false) := by simp [h]
  simp only [firstCause, h1, false_and, if_false, if_neg h2, hb', hr, reads_named_cell hc s]
  cases s.isDefined cy cx <;> simp

/-- META, METAR, REV and UPDATE up to the effect. -/
theorem gridReader_next {i : Instr} {s k : State} (hr : readsGrid i = true) (hm : isMutator i = true) :
    (.next (s.requireInit (s.requireGrid k)) : Result) =
      .next (if firstCause i s = .none then k else s.raise (firstCause i s)) := by
  apply next_if
  rcases requireInit_cases s (s.requireGrid k) with ⟨h, e⟩ | ⟨h, e⟩
  · rw [firstCause_of_readsGrid hr fun _ => h]
    rcases requireGrid_cases s k with ⟨hd, e'⟩ | ⟨hd, e'⟩
    · exact .inl ⟨if_pos hd, e.trans e'⟩
    · rw [if_neg hd]; exact .inr ⟨by decide, e.trans e'⟩
  · simp [e, firstCause_of_not_init hm h]

/-- CLR, FILL, SETALL and BRIGHT up to the effect. -/
theorem nonReader_next {i : Instr} {s k : State} (hm : isMutator i = true) (hr : ∀ y x, readsCell i y x = false)
    (hb : coordBad i = false) :
    (.next (s.requireInit k) : Result) =
      .next (if firstCause i s = .none then k else s.raise (firstCause i s)) := by
  apply next_if
  rcases requireInit_cases s k with ⟨h, e⟩ | ⟨h, e⟩
  · simp [e, firstCause_of_no_read hm hr hb h]
  · simp [e, firstCause_of_not_init hm h]

/-- ORP and ANDP up to the effect. -/
theorem cellReader_next {i : Instr} {x y : Nibble} {s : State} (f : Byte → Byte) (hm : isMutator i = true)
    (hb : coordBad i = (6 ≤ x.toNat || 6 ≤ y.toNat))
    (hr : ∀ y' x' : Coord, readsCell i y' x' = (x.toNat == x'.val && y.toNat == y'.val)) :
    (.next (s.requireInit (s.requireCoord x y fun cy cx =>
        s.requireCell cy cx fun v => (s.setCell cy cx (f v)).advance)) : Result) =
      .next (if firstCause i s = .none then cellEffect x y f s else s.raise (firstCause i s)) := by
  apply next_if
  rcases requireInit_cases s (s.requireCoord x y fun cy cx =>
    s.requireCell cy cx fun v => (s.setCell cy cx (f v)).advance) with ⟨h, e⟩ | ⟨h, e⟩
  · rw [e]
    cases hc : cellOf x y with
    | none => simp [requireCoord_of_bad hc, firstCause_of_coordBad (hb.trans (coordBad_iff.mpr hc)) h]
    | some p =>
      obtain ⟨cy, cx⟩ := p
      rw [requireCoord_of_cell hc, firstCause_of_readsCell hm hb hr hc h]
      rcases requireCell_cases s cy cx fun v => (s.setCell cy cx (f v)).advance with ⟨hd, _⟩ | ⟨hd, _⟩
      · exact .inl ⟨if_pos hd, by simp [hd, cellEffect, namedCell, hc]⟩
      · simp [hd]
  · simp [e, firstCause_of_not_init hm h]

/-- Every command raises its first cause, or has its effect. -/
theorem execWith_spec (c : Config) (i : Instr) (s : State) :
    execWith c i s =
      .next (if firstCause i s = .none then commandEffect c i s else s.raise (firstCause i s)) := by
  cases i with
  | init =>
    apply next_if
    cases h : s.init <;> simp [firstCause, commandEffect, h, isMutator, coordBad, readsCell, readsGrid]
  | setp x y pat =>
    apply next_if
    rcases requireInit_cases s (s.requireCoord x y fun cy cx => (s.setCell cy cx pat).advance) with ⟨h, e⟩ | ⟨h, e⟩
    · rw [e]
      cases hc : cellOf x y with
      | none => simp [requireCoord_of_bad hc, firstCause_of_coordBad (i := .setp x y pat) (coordBad_iff.mpr hc) h]
      | some p =>
        have hb : coordBad (.setp x y pat) = false := by
          have := mt coordBad_iff.mp (by simp [hc] : cellOf x y ≠ none)
          simpa [coordBad] using this
        simp [requireCoord_of_cell (cy := p.1) (cx := p.2) hc, commandEffect, cellEffect, namedCell, hc,
          firstCause_of_no_read (i := .setp x y pat) rfl (fun _ _ => rfl) hb h]
    · simp [e, firstCause_of_not_init (i := .setp x y pat) rfl h]
  | orp x y pat => exact cellReader_next (i := .orp x y pat) (fun v => v ||| pat) rfl rfl fun _ _ => rfl
  | andp x y pat => exact cellReader_next (i := .andp x y pat) (fun v => v &&& ~~~pat) rfl rfl fun _ _ => rfl
  | clr => exact nonReader_next rfl (fun _ _ => rfl) rfl
  | fill => exact nonReader_next rfl (fun _ _ => rfl) rfl
  | rev => exact gridReader_next rfl rfl
  | setall => exact nonReader_next rfl (fun _ _ => rfl) rfl
  | getall =>
    apply next_if
    rw [firstCause_of_readsGrid (i := .getall) rfl (by simp [isMutator])]
    rcases requireGrid_cases s (s.emit [.resp s.gridBytes]).advance with ⟨hd, e⟩ | ⟨hd, e⟩
    · exact .inl ⟨if_pos hd, e⟩
    · rw [if_neg hd]; exact .inr ⟨by decide, e⟩
  | metaNumber d => exact gridReader_next (i := .metaNumber d) rfl rfl
  | metaReverse d => exact gridReader_next (i := .metaReverse d) rfl rfl
  | bright level => exact nonReader_next (i := .bright level) rfl (fun _ _ => rfl) rfl
  | update => exact gridReader_next rfl rfl

/-- `execWith_spec` for the device. -/
theorem exec_spec (i : Instr) (s : State) :
    exec i s =
      .next (if firstCause i s = .none then commandEffect Config.device i s else s.raise (firstCause i s)) := by
  rw [exec_eq_execWith, execWith_spec]

/-! Reads after an effect -/

@[simp] theorem advance_cell (s : State) (y x : Coord) : s.advance.cell y x = s.cell y x := by
  simp only [State.cell, advance_cells]

@[simp] theorem advance_isDefined (s : State) (y x : Coord) : s.advance.isDefined y x = s.isDefined y x := by
  simp only [State.isDefined, advance_defined]

@[simp] theorem setGrid_isDefined (s : State) (f : Coord → Coord → Byte) (y x : Coord) :
    (s.setGrid f).isDefined y x = true := by simp [State.isDefined]

/-- Everything a command that writes one cell does to the state (spec/40_buffer_ops.md R101 to R103). -/
theorem setCell_advance_cellWritten (s : State) (y x : Coord) (v : Byte) :
    s.CellWritten (s.setCell y x v).advance y x v := by
  refine ⟨?_, ?_, ?_, rfl⟩
  · simp
  · simp
  · intro y' x' h
    simp only [advance_cell, advance_isDefined]
    exact ⟨setCell_cell_other s v h, setCell_isDefined_other s v h⟩

/-- Everything a command that writes the whole grid does to the state (R104 to R106). -/
theorem setGrid_advance_gridWritten (s : State) (f : Coord → Coord → Byte) :
    s.GridWritten (s.setGrid f).advance f := by
  constructor
  · intro y x; simp
  · simp only [State.advance, State.setGrid]

/-- A command that answers a next state has raised its first cause or has had its effect. -/
theorem exec_cases {i : Instr} {s t : State} (h : exec i s = .next t) :
    (firstCause i s ≠ .none ∧ t = s.raise (firstCause i s)) ∨
      (firstCause i s = .none ∧ t = commandEffect Config.device i s) := by
  rw [exec_spec] at h
  injection h with h
  by_cases hf : firstCause i s = .none
  · rw [if_pos hf] at h; exact .inr ⟨hf, h.symm⟩
  · rw [if_neg hf] at h; exact .inl ⟨hf, h.symm⟩

end Sys2Proof.Machine
end

