-- ==== Sys2Proof/Laws/Hosts.lean ====
section
/-! SUPPORT. Runs of several steps, the words of whole commands, and what a whole command can do
(spec/60_exceptions.md R252). -/

namespace Sys2Proof.Machine

open Sys2Proof

theorem runSteps_of_step {k : Nat} {s t : State} (h : step s = .next t) : runSteps (k + 1) s = runSteps k t := by
  simp [runSteps, h]

/-- A run of `m + n` steps is a run of `m` and then one of `n`. -/
theorem runSteps_add {m : Nat} (n : Nat) {s t : State} (h : runSteps m s = .next t) :
    runSteps (m + n) s = runSteps n t := by
  induction m generalizing s with
  | zero => simp only [runSteps, Host.Outcome.next.injEq] at h; simp [h]
  | succ m ih =>
    rw [show m + 1 + n = m + n + 1 by omega]
    simp only [runSteps] at h ⊢
    split at h
    · exact ih h
    all_goals simp at h

@[simp] theorem hostWords_nil : hostWords [] = [] := rfl
@[simp] theorem hostWords_cons (h : HostCommand) (hs : List HostCommand) :
    hostWords (h :: hs) = h.words ++ hostWords hs := rfl
@[simp] theorem words_length (h : HostCommand) : h.words.length = h.payload.length + 1 := rfl
@[simp] theorem dutyKept_nil : dutyKept [] = true := rfl
@[simp] theorem dutyKept_cons (h : HostCommand) (hs : List HostCommand) :
    dutyKept (h :: hs) = (h.whole && dutyKept hs) := rfl

/-- A whole command raises the first cause of its header, or has the effect of the header and takes the payload. -/
theorem takeCommand_spec (h : HostCommand) {s : State} (hf : s.faultCause = .none) :
    takeCommand h s = .next (if firstCause h.instr s = .none
      then h.payload.foldl (fun u w => takePayload w u) (commandEffect Config.device h.instr s)
      else s.raise (firstCause h.instr s)) := by
  have he : ∀ i, (commandEffect Config.device i s).faultCause = s.faultCause := by
    intro i
    cases i <;> simp [commandEffect, cellEffect]
    split <;> simp
  simp only [takeCommand, exec_spec]
  split <;> rename_i hc
  · rw [if_pos ((he _).trans hf)]
  · simp [hc]

end Sys2Proof.Machine
end

