-- ==== Sys2Proof/Laws/MetaNumber.lean ====
section
/-! SUPPORT. What the scan over the stencil planes does to one cell, said once (spec/42_meta_render.md R153). -/

namespace Sys2Proof.Machine

open Sys2Proof

/-- The part of the overlay mask that some planes give, on top of `acc`. -/
def litPlanes (c : Config) (mask : Byte) (planes : List (Fin 8)) (acc : Byte) (y x : Coord) : Byte :=
  planes.foldl (fun acc p => if segmentBit mask p then acc ||| stencilEntry c p x y else acc) acc

theorem overlayMask_eq_litPlanes (c : Config) (digit : Nibble) (y x : Coord) :
    overlayMask c digit y x = litPlanes c (lutEntry c (digitIx digit)) (List.finRange 8) 0x00#8 y x := rfl

theorem litPlanes_or (c : Config) (mask : Byte) (planes : List (Fin 8)) (a b : Byte) (y x : Coord) :
    litPlanes c mask planes (a ||| b) y x = a ||| litPlanes c mask planes b y x := by
  induction planes generalizing b with
  | nil => rfl
  | cons p planes ih =>
    simp only [litPlanes, List.foldl_cons] at ih ⊢
    split
    · rw [BitVec.or_assoc]; exact ih _
    · exact ih _

/-- A bit of the lit planes is 1 when some lit plane holds it. -/
theorem litPlanes_getLsbD (c : Config) (mask : Byte) (planes : List (Fin 8)) (acc : Byte) (y x : Coord) (b : Nat) :
    (litPlanes c mask planes acc y x).getLsbD b = true ↔ (acc.getLsbD b = true ∨
      ∃ p ∈ planes, segmentBit mask p = true ∧ (stencilEntry c p x y).getLsbD b = true) := by
  induction planes generalizing acc with
  | nil => simp [litPlanes]
  | cons p planes ih =>
    simp only [litPlanes, List.foldl_cons] at ih ⊢
    rw [ih]
    cases h : segmentBit mask p <;> simp [h, or_assoc]

@[simp] theorem overlayPlane_getElem (c : Config) (m : RenderMode) (p : Fin 8) (g : GridBytes) (i : Fin 36) :
    (overlayPlane c m p g)[i] = m.apply g[i] (stencilEntry c p (colOf i) (rowOf i)) := by simp [overlayPlane]

/-- The normal scan ORs the lit planes into each cell. -/
theorem scan_normal_getElem (c : Config) (mask : Byte) (planes : List (Fin 8)) (g : GridBytes) (i : Fin 36) :
    (planes.foldl (fun g p => if segmentBit mask p then overlayPlane c .normal p g else g) g)[i] =
      g[i] ||| litPlanes c mask planes 0x00#8 (rowOf i) (colOf i) := by
  induction planes generalizing g with
  | nil => simp [litPlanes]
  | cons p planes ih =>
    simp only [List.foldl_cons]
    rw [ih]
    have := litPlanes_or c mask planes (stencilEntry c p (colOf i) (rowOf i)) 0x00#8 (rowOf i) (colOf i)
    simp only [litPlanes, List.foldl_cons, BitVec.or_zero] at this ⊢
    split
    · rw [overlayPlane_getElem]
      simp only [RenderMode.apply, BitVec.zero_or, this, BitVec.or_assoc]
    · rfl

/-- The reverse scan clears the lit planes from each cell. -/
theorem scan_reverse_getElem (c : Config) (mask : Byte) (planes : List (Fin 8)) (g : GridBytes) (i : Fin 36) :
    (planes.foldl (fun g p => if segmentBit mask p then overlayPlane c .reverse p g else g) g)[i] =
      g[i] &&& ~~~litPlanes c mask planes 0x00#8 (rowOf i) (colOf i) := by
  induction planes generalizing g with
  | nil =>
    simp only [litPlanes, List.foldl_nil]
    rw [show ~~~(0x00#8) = BitVec.allOnes 8 from rfl, BitVec.and_allOnes]
  | cons p planes ih =>
    simp only [List.foldl_cons]
    rw [ih]
    have := litPlanes_or c mask planes (stencilEntry c p (colOf i) (rowOf i)) 0x00#8 (rowOf i) (colOf i)
    simp only [litPlanes, List.foldl_cons, BitVec.or_zero] at this ⊢
    split
    · rw [overlayPlane_getElem]
      simp only [RenderMode.apply, BitVec.zero_or, this]
      rw [BitVec.not_or, BitVec.and_assoc]
    · rfl

end Sys2Proof.Machine
end

