-- ==== Sys2Proof/Laws/PerInstr.lean ====
section
/-! SUPPORT. Statements for all commands, one lemma for each constructor of `Instr`. -/

namespace Sys2Proof.Laws.HeaderFormat

open Sys2Proof

/-- The header of a command holds its opcode, and zeros in the must-be-zero fields of its format
(spec/30_encoding.md R72, R75). -/
def Statement (i : Instr) : Prop :=
  fieldOP (header i) = i.opcode.value ∧ header i &&& i.opcode.mask = i.opcode.fixedBits

theorem init : Statement .init := ⟨by decide, by decide⟩

theorem setp (x y : Nibble) (pat : Byte) : Statement (.setp x y pat) := by
  refine ⟨fieldOP_packHeader .., BitVec.eq_of_getLsbD_eq fun i hi => ?_⟩
  rw [header, BitVec.getLsbD_and, packHeader_getLsbD]
  interval_cases i <;> simp [Instr.opcode, Opcode.mask, Opcode.fixedBits, Opcode.value]

theorem orp (x y : Nibble) (pat : Byte) : Statement (.orp x y pat) := by
  refine ⟨fieldOP_packHeader .., BitVec.eq_of_getLsbD_eq fun i hi => ?_⟩
  rw [header, BitVec.getLsbD_and, packHeader_getLsbD]
  interval_cases i <;> simp [Instr.opcode, Opcode.mask, Opcode.fixedBits, Opcode.value]

theorem andp (x y : Nibble) (pat : Byte) : Statement (.andp x y pat) := by
  refine ⟨fieldOP_packHeader .., BitVec.eq_of_getLsbD_eq fun i hi => ?_⟩
  rw [header, BitVec.getLsbD_and, packHeader_getLsbD]
  interval_cases i <;> simp [Instr.opcode, Opcode.mask, Opcode.fixedBits, Opcode.value]

theorem clr : Statement .clr := ⟨by decide, by decide⟩

theorem fill : Statement .fill := ⟨by decide, by decide⟩

theorem rev : Statement .rev := ⟨by decide, by decide⟩

theorem setall : Statement .setall := ⟨by decide, by decide⟩

theorem getall : Statement .getall := ⟨by decide, by decide⟩

theorem metaNumber (digit : Nibble) : Statement (.metaNumber digit) := by
  refine ⟨fieldOP_packHeader .., BitVec.eq_of_getLsbD_eq fun i hi => ?_⟩
  rw [header, BitVec.getLsbD_and, packHeader_getLsbD]
  interval_cases i <;> simp [Instr.opcode, Opcode.mask, Opcode.fixedBits, Opcode.value]

theorem metaReverse (digit : Nibble) : Statement (.metaReverse digit) := by
  refine ⟨fieldOP_packHeader .., BitVec.eq_of_getLsbD_eq fun i hi => ?_⟩
  rw [header, BitVec.getLsbD_and, packHeader_getLsbD]
  interval_cases i <;> simp [Instr.opcode, Opcode.mask, Opcode.fixedBits, Opcode.value]

theorem bright (level : Byte) : Statement (.bright level) := by
  refine ⟨fieldOP_packHeader .., BitVec.eq_of_getLsbD_eq fun i hi => ?_⟩
  rw [header, BitVec.getLsbD_and, packHeader_getLsbD]
  interval_cases i <;> simp [Instr.opcode, Opcode.mask, Opcode.fixedBits, Opcode.value]

theorem update : Statement .update := ⟨by decide, by decide⟩

end Sys2Proof.Laws.HeaderFormat
end

