-- ==== Sys2Proof/Tests/Slice0.lean ====
section
/-! SUPPORT. Tests. Expected values are from the worked examples of the spec's rules and from
spec/95_test_vectors.md; each test names its source. A `witness_<Name>` shows that the hypotheses of the obligation
<Name> can be met, one witness for each clause at a boundary of its range. -/

namespace Sys2Proof.Tests

open Sys2Proof Sys2Proof.Machine

/-! ### Small states -/

/-- The state a step answers. -/
def nextOf : Result → Option State
  | .next s => some s
  | .fault _ => none
  | .refused _ => none

/-- The fault a step answers. -/
def faultOf : Result → Option Fault
  | .next _ => none
  | .fault r => some r
  | .refused _ => none

/-- An initialised block with an undefined grid. -/
def bare : State := { State.reset with init := true, trace := [.busInit] }

/-- An initialised block with a zero grid. -/
def clear : State := { State.resetWith .zero with init := true, trace := [.busInit] }

/-- The state with one word on the port. -/
def State.facing (s : State) (w : Word) : State := { s with stream := [w], pc := 0 }

/-- The fixture of spec/95_test_vectors.md §2 for planes b and c, the only planes that digit 1 lights. -/
def fixture : Config where
  rom := Vector.ofFn fun i => if [47, 53, 95, 101].contains i.val then 0xFF#8 else 0x00#8
  nst := Vector.ofFn fun i => if i.val = 1 then 0x60#8 else 0x00#8
  unitAddr := Vector.ofFn fun u => ⟨u.val⟩
  slotBase := .six
  gridReset := .undef

/-- A well-formed raw configuration, every entry the largest one. -/
def plainRaw : RawConfig where
  stencilRom := List.replicate 8 (List.replicate 6 (List.replicate 6 255))
  nst := List.replicate 16 255
  unitAddr := [⟨0⟩, ⟨1⟩, ⟨2⟩]
  row1SlotBase := 6
  gridReset := .undef

/-! ### WellFormed: an ill-formed term for each check (spec/00_scope.md R8, 30_encoding.md R80) -/

set_option maxRecDepth 8000 in
theorem test_wf_plain : plainRaw.wellFormed = true := by decide
set_option maxRecDepth 8000 in
theorem test_wf_eight : { plainRaw with row1SlotBase := 8 }.wellFormed = true := by decide
theorem test_wf_stencil_planes :
    { plainRaw with stencilRom := List.replicate 7 (List.replicate 6 (List.replicate 6 0)) }.firstError =
      some .stencilSize := by decide
theorem test_wf_stencil_rows :
    { plainRaw with stencilRom := List.replicate 8 (List.replicate 5 (List.replicate 6 0)) }.firstError =
      some .stencilSize := by decide
theorem test_wf_stencil_columns :
    { plainRaw with stencilRom := List.replicate 8 (List.replicate 6 (List.replicate 7 0)) }.firstError =
      some .stencilSize := by decide
theorem test_wf_nst : { plainRaw with nst := List.replicate 15 0 }.firstError = some .nstSize := by decide
theorem test_wf_stencil_entry :
    { plainRaw with stencilRom := List.replicate 8 (List.replicate 6 (List.replicate 6 256)) }.firstError =
      some .entryRange := by decide
set_option maxRecDepth 8000 in
theorem test_wf_nst_entry : { plainRaw with nst := List.replicate 16 256 }.firstError = some .entryRange := by decide
set_option maxRecDepth 8000 in
theorem test_wf_units : { plainRaw with unitAddr := [⟨0⟩, ⟨1⟩] }.firstError = some .unitCount := by decide
set_option maxRecDepth 8000 in
theorem test_wf_slot : { plainRaw with row1SlotBase := 7 }.firstError = some .slotBase := by decide
theorem test_wf_x : (AsmCommand.setp 16 0 0).firstError = some .coordinate := by decide
theorem test_wf_y : (AsmCommand.orp 0 16 0).firstError = some .coordinate := by decide
theorem test_wf_pat : (AsmCommand.andp 15 15 256).firstError = some .pattern := by decide
theorem test_wf_digit : (AsmCommand.metaNumber 16).firstError = some .digit := by decide
theorem test_wf_level : (AsmCommand.bright 256).firstError = some .level := by decide
theorem test_wf_payload_length : (AsmCommand.setall (List.replicate 35 0)).firstError = some .payloadLength := by decide
theorem test_wf_payload_byte : (AsmCommand.setall (List.replicate 36 256)).firstError = some .pattern := by decide
theorem test_wf_display : (AsmCommand.display (List.replicate 36 255) 256).firstError = some .level := by decide

/-! ### Decoding: a word of each row, written bit by bit from spec/30_encoding.md R72 and R75 -/

theorem test_decode_init : decode 0b00010000000000000000000000000000#32 = .ok .init := by decide
theorem test_decode_setp : decode 0b00100000000100100000000001010101#32 = .ok (.setp 2#4 1#4 0x55#8) := by decide
theorem test_decode_orp : decode 0b00110000001100100000000000000001#32 = .ok (.orp 2#4 3#4 0x01#8) := by decide
theorem test_decode_andp : decode 0b01000000000000010000000011110000#32 = .ok (.andp 1#4 0#4 0xF0#8) := by decide
theorem test_decode_clr : decode 0b01010000000000000000000000000000#32 = .ok .clr := by decide
theorem test_decode_fill : decode 0b01100000000000000000000000000000#32 = .ok .fill := by decide
theorem test_decode_rev : decode 0b01110000000000000000000000000000#32 = .ok .rev := by decide
theorem test_decode_setall : decode 0b10000000000000000000000000000000#32 = .ok .setall := by decide
theorem test_decode_getall : decode 0b10010000000000000000000000000000#32 = .ok .getall := by decide
theorem test_decode_meta : decode 0b10101001000000000000000000000000#32 = .ok (.metaNumber 9#4) := by decide
theorem test_decode_metar : decode 0b10111001000000000000000000000000#32 = .ok (.metaReverse 9#4) := by decide
theorem test_decode_bright : decode 0b11000000000000000000000000010000#32 = .ok (.bright 16#8) := by decide
theorem test_decode_update : decode 0b11010000000000000000000000000000#32 = .ok .update := by decide

/-- Illegal words (R77): the reserved opcodes, and a 1 in a must-be-zero field of each format. -/
theorem test_decode_illegal :
    decode 0x00000000#32 = .error (.reservedOpcode 0x0#4) ∧ decode 0xE0000000#32 = .error (.reservedOpcode 0xE#4) ∧
    decode 0xFFFFFFFF#32 = .error (.reservedOpcode 0xF#4) ∧ decode 0x10000001#32 = .error (.mustBeZero .init) ∧
    decode 0x21000000#32 = .error (.mustBeZero .setp) ∧ decode 0x30000100#32 = .error (.mustBeZero .orp) ∧
    decode 0xA0100000#32 = .error (.mustBeZero .metaNumber) ∧ decode 0xB0000001#32 = .error (.mustBeZero .metaReverse) ∧
    decode 0xC0000100#32 = .error (.mustBeZero .bright) ∧ decode 0xC1000000#32 = .error (.mustBeZero .bright) := by
  decide

/-- The table's numbering: the header is the first word, also where all ten words of a SETALL are given. -/
theorem test_table_word : decodeTableWord 32 0x20120055 = some (.setp 2#4 1#4 0x55#8) ∧
    decodeTableWord 320 0xFFFFFFFF80000000 = some .setall ∧ decodeTableWord 32 0xE0000000 = none ∧
    tableWords 32 0xFFFFFFFF20120055 = 0x20120055#32 :: List.replicate 9 0#32 := by decide

/-- A byte transport (20_memory.md R56): INIT, then the first three bytes of a word. -/
theorem test_byte_transport : decodeBytes [0x10#8, 0x00#8, 0x00#8, 0x00#8, 0x20#8] = .ok (.init, [0x20#8]) ∧
    wordsOfBytes [0x10#8, 0x00#8, 0x00#8, 0x00#8, 0x20#8] = .error .truncatedWord := by decide

/-- Lines of assembly (R80, R82). -/
theorem test_assembler : assembleLine "  SETP 5, 4, 0x3C ; a comment".toList = .ok [0x2045003C#32] ∧
    assembleLine "BRIGHT 16".toList = .ok [0xC0000010#32] ∧ assembleLine "; nothing".toList = .ok [] ∧
    assembleLine "META 16".toList = .error .digit ∧ assembleLine "NOP".toList = .error .mnemonic ∧
    assembleLine "CLR 1".toList = .error .operandCount ∧ assembleLine "BRIGHT 1x".toList = .error .number := by decide

/-! ### One step of each command -/

/-- R181: from reset. -/
theorem test_init : (nextOf (exec .init State.reset)).map (fun t => (t.init, t.trace, t.pc, t.faultCause)) =
    some (true, [.busInit], 1, .none) := by decide
/-- R182. -/
theorem test_init_twice : (nextOf (exec .init clear)).map (fun t => (t.trace, t.faultCause, t.pc)) =
    some ([.busInit], .alreadyInitialized, 0) := by decide
/-- R101: the worked example, on an undefined grid. -/
theorem test_setp : (nextOf (exec (.setp 2#4 1#4 0x55#8) bare)).map
    (fun t => (t.cell 1 2, t.isDefined 1 2, t.isDefined 2 1, t.pc)) = some (0x55#8, true, false, 1) := by decide
/-- R101: `x = 6` faults although `y` is legal. -/
theorem test_setp_range : (nextOf (exec (.setp 6#4 5#4 0x55#8) clear)).map (·.faultCause) = some .coordRange := by decide
/-- R102: the worked example. -/
theorem test_orp : (nextOf (exec (.orp 2#4 3#4 0x01#8) (clear.setCell 3 2 0x80#8))).map (·.cell 3 2) =
    some 0x81#8 := by decide
/-- R102: an undefined cell faults, even with pattern 0. -/
theorem test_orp_undefined : (nextOf (exec (.orp 2#4 3#4 0x00#8) bare)).map (·.faultCause) =
    some .undefinedCell := by decide
/-- R103: the worked example. -/
theorem test_andp : (nextOf (exec (.andp 1#4 0#4 0xF0#8) (clear.setCell 0 1 0xFF#8))).map
    (fun t => (t.cell 0 1, t.cell 1 0)) = some (0x0F#8, 0x00#8) := by decide
/-- R104: on an undefined grid. -/
theorem test_clr : (nextOf (exec .clr bare)).map (fun t => (t.cells, t.defined)) =
    some (Vector.replicate 36 0x00#8, Vector.replicate 36 true) := by decide
/-- R105: on an undefined grid. -/
theorem test_fill : (nextOf (exec .fill bare)).map (fun t => (t.cells, t.defined)) =
    some (Vector.replicate 36 0xFF#8, Vector.replicate 36 true) := by decide
/-- R106: the worked example. -/
theorem test_rev : (nextOf (exec .rev (clear.setCell 0 0 0x81#8))).map (fun t => (t.cell 0 0, t.cell 5 5)) =
    some (0x7E#8, 0xFF#8) := by decide
/-- R106: one undefined cell. -/
theorem test_rev_undefined : (nextOf (exec .rev bare)).map (fun t => (t.faultCause, t.cells, t.pc)) =
    some (.undefinedCell, bare.cells, 0) := by decide
/-- R131: the header. -/
theorem test_setall : (nextOf (exec .setall bare)).map (fun t => (t.pendActive, t.pendCount, t.defined, t.pc)) =
    some (true, 0, bare.defined, 1) := by decide
/-- R131: the ninth payload word of the worked example; a payload word is not decoded. -/
theorem test_setall_ninth : (nextOf (step (State.facing { bare with
      pendActive := true
      pendCount := 8
      pendWords := Vector.ofFn fun j => if j.val = 1 then 0x04050607#32 else 0xD0000000#32 } 0x20212223#32))).map
    (fun t => (t.cell 0 0, t.cell 1 0, t.cell 5 5, t.pendActive)) = some (0xD0#8, 0x06#8, 0x23#8, false) := by decide
/-- R132. -/
theorem test_getall : (nextOf (exec .getall (clear.setCell 1 2 0x55#8))).map (fun t => t.trace.length) = some 2 ∧
    (clear.setCell 1 2 0x55#8).gridBytes[8] = 0x55#8 := by decide
set_option maxRecDepth 8000 in
/-- R155: digit 1 of the fixture on a blank grid; cell (5, 1) is in the numeral, cell (1, 5) is not. -/
theorem test_meta : (nextOf (metaNumberWith fixture 1#4 clear)).map
    (fun t => (t.cell 1 5, t.cell 4 5, t.cell 5 1, t.cell 0 5)) = some (0xFF#8, 0xFF#8, 0x00#8, 0x00#8) := by decide
set_option maxRecDepth 8000 in
/-- R156: digit 1 of the fixture on a filled grid. -/
theorem test_metar : (nextOf (metaReverseWith fixture 1#4 (clear.setGrid fun _ _ => 0xFF#8))).map
    (fun t => (t.cell 1 5, t.cell 4 5, t.cell 5 1, t.cell 0 5)) = some (0x00#8, 0x00#8, 0xFF#8, 0xFF#8) := by decide
/-- R184: the worked example. -/
theorem test_bright : (nextOf (brightWith fixture 10#8 bare)).map (fun t => (t.bright, t.brightDef, t.trace)) =
    some (10#4, true, [.busInit, .busBrightness ⟨0⟩ 10#4, .busBrightness ⟨1⟩ 10#4, .busBrightness ⟨2⟩ 10#4]) := by decide
/-- R185: 16 is the smallest rejected level. -/
theorem test_bright_rejected : (nextOf (exec (.bright 16#8) bare)).map (fun t => (t.brightDef, t.trace, t.faultCause)) =
    some (false, [.busInit, .logBrightnessRejected 16#8], .none) := by decide
/-- R205: an all-0xFF grid, for both slot maps. -/
theorem test_image_full :
    imageOf .six (Vector.replicate 36 0xFF#8) 1 = Vector.ofFn (fun k => if k.val % 2 = 0 then 0xFF#8 else 0x0F#8) ∧
    imageOf .eight (Vector.replicate 36 0xFF#8) 1 = Vector.replicate 16 0x3F#8 := by decide
/-- R207: bit 0 of cell (x, y) = (2, 1) is at unit 0, byte 15, bit 0 (slot 8). -/
theorem test_update : (nextOf (updateWith fixture (clear.setCell 1 2 0x01#8))).map (·.trace) = some [.busInit,
    .busDisplay ⟨0⟩ (Vector.ofFn fun k => if k.val = 15 then 0x01#8 else 0x00#8),
    .busDisplay ⟨1⟩ (Vector.replicate 16 0x00#8), .busDisplay ⟨2⟩ (Vector.replicate 16 0x00#8)] := by decide

/-- R238: NOT_INITIALIZED comes before COORD_RANGE and before the level check. -/
theorem test_priority : (nextOf (exec (.setp 6#4 0#4 0#8) State.reset)).map (·.faultCause) = some .notInitialized ∧
    (nextOf (exec (.bright 16#8) State.reset)).map (·.faultCause) = some .notInitialized ∧
    (nextOf (exec (.orp 6#4 0#4 0#8) bare)).map (·.faultCause) = some .coordRange := by decide

/-- R276, R241: the ends of a run. -/
theorem test_ends : faultOf (step clear) = some .runComplete ∧
    faultOf (step { clear with pendActive := true }) = some .runIncomplete ∧
    faultOf (step (clear.raise .coordRange)) = some (.halted .coordRange) := by decide

/-- R270: reset of a faulted block, and the model's own `withFetchWord` on it (log 17). -/
theorem test_reset : (nextOf (step ((clear.raise .coordRange).assertReset [0x10000000#32]))).map
      (fun t => (t.init, t.faultCause, t.stream, t.pc)) = some (false, .none, [0x10000000#32], 0) ∧
    (nextOf (step (State.reset.withFetchWord 32 0x10000000))).map (·.init) = some true := by decide

set_option maxRecDepth 8000 in
/-- R8: an ill-formed configuration has no step. -/
theorem test_raw_refused : faultOf (stepRaw { plainRaw with row1SlotBase := 7 } clear) = none ∧
    nextOf (stepRaw { plainRaw with row1SlotBase := 7 } clear) = none := by decide

/-- R134, R252, R277: the receiver's commands for a frame are whole, a frame that fails to decode gives none, and grid
byte 0 is frame byte 8. -/
theorem test_receiver : dutyKept (receiverUpdates [none, some ⟨Vector.replicate 36 0xFF#8, 10#8⟩]).flatten = true ∧
    (receiverUpdates [none]).flatten = [] ∧ (framePattern (Vector.ofFn fun i => BitVec.ofNat 8 i.val))[0] = 8#8 := by
  decide

/-- R277: no write while the block is being reset, and none inside another host's SETALL. -/
theorem test_host_moves : (clear.assertReset []).hostWrite [0x50000000#32] = none ∧
    ((SharedPort.mk clear none 0).write .mainLoop 0x80000000#32).bind (·.write .receiver 0xD0000000#32) = none ∧
    (((SharedPort.mk clear none 0).write .mainLoop 0x80000000#32).bind (·.write .mainLoop 0xD0000000#32)).map (·.owed) =
      some 8 := by decide

/-- R252: a schedule that puts the receiver's command between two of the main loop's. -/
theorem test_interleave : hostWords (interleave [.mainLoop, .receiver] [⟨.clr, []⟩, ⟨.fill, []⟩] [⟨.update, []⟩]) =
    [0x50000000#32, 0xD0000000#32, 0x60000000#32] := by decide

/-! ### Witnesses -/

theorem witness_EachCommandHasOneEncoding : decode 0x20FF00FF#32 = .ok (.setp 15#4 15#4 255#8) := by decide

theorem witness_HeaderDecodesIffItsRowMatches :
    0x20FF00FF#32 &&& Opcode.setp.mask = Opcode.setp.fixedBits := by decide

theorem witness_IllegalHeadersRaiseIllegalCommand :
    (State.facing bare 0x00000000#32).Ready ∧ (State.facing bare 0x00000000#32).nextWord = some 0x00000000#32 ∧
    (State.facing bare 0xD0000001#32).Ready ∧ (State.facing bare 0xD0000001#32).nextWord = some 0xD0000001#32 ∧
    (State.facing bare 0x20008000#32).nextWord = some 0x20008000#32 ∧
    (State.facing bare 0xAF800000#32).nextWord = some 0xAF800000#32 ∧
    (State.facing bare 0xC8000000#32).nextWord = some 0xC8000000#32 := by decide

theorem witness_AssembledCommandsDecode : (AsmCommand.update, Instr.update) ∈ [(AsmCommand.init, Instr.init),
      (.clr, .clr), (.fill, .fill), (.rev, .rev), (.getall, .getall), (.update, .update)] ∧
    (15 ≤ 15 ∧ 15 ≤ 15 ∧ 255 ≤ 255) ∧ ¬ (15 ≤ 15 ∧ 16 ≤ 15 ∧ 255 ≤ 255) ∧ 15 < 16 ∧ 255 < 256 ∧
    (List.replicate 36 255).length = 36 ∧ (∀ v ∈ List.replicate 36 255, v ≤ 255) ∧
    ¬ ((List.replicate 37 0).length = 36 ∧ ∀ v ∈ List.replicate 37 0, v ≤ 255) := by decide

theorem witness_ReadyStepRunsTheDecodedCommand : (State.facing clear 0xD0000000#32).Ready ∧
    (State.facing clear 0xD0000000#32).nextWord = some 0xD0000000#32 ∧ decode 0xD0000000#32 = .ok .update := by decide

theorem witness_FetchedWordRunsNext : decode 0xBF000000#32 = .ok (.metaReverse 15#4) := by decide

theorem witness_PortSettlesInPriorityOrder :
    (clear.raise .coordRange).resetIn = none ∧ (clear.raise .coordRange).faultCause ≠ .none ∧
    (let s := State.facing { clear with pendActive := true } 0xD0000000#32
     s.resetIn = none ∧ s.faultCause = .none ∧ s.nextWord = some 0xD0000000#32 ∧ s.pendActive = true) ∧
    (let s := State.facing clear 0xE0000000#32
     s.nextWord = some 0xE0000000#32 ∧ s.pendActive = false ∧ decode 0xE0000000#32 = .error (.reservedOpcode 0xE#4)) ∧
    (let s := State.facing clear 0xC0000010#32
     s.nextWord = some 0xC0000010#32 ∧ decode 0xC0000010#32 = .ok (.bright 16#8) ∧
       firstCause (.bright 16#8) s = .none ∧ 16 ≤ (16#8).toNat) ∧
    firstCause (.setp 6#4 0#4 0#8) clear ≠ .none := by decide

theorem witness_StepStopsExactlyAtTheEndOfARun : clear.resetIn = none ∧ clear.IsFinal ∧
    { clear with pendActive := true }.IsIncomplete ∧ (clear.raise .coordRange).IsFaulted := by decide

theorem witness_PcCountsTheWordsTaken : ∃ t, (State.facing bare 0x50000000#32).resetIn = none ∧
    step (State.facing bare 0x50000000#32) = .next t := ⟨_, rfl, rfl⟩

theorem witness_ResetLeavesTheSpecValues : GridReset.zero = .zero := rfl

set_option maxRecDepth 8000 in
theorem witness_IllFormedConfigurationsAreRefused :
    (∃ c, plainRaw.load = .ok c) ∧ { plainRaw with row1SlotBase := 7 }.load = .error .slotBase := ⟨⟨_, rfl⟩, rfl⟩

theorem witness_OnlyResetLeavesTheFaultedState : (clear.raise .undefinedCell).faultCause ≠ .none ∧
    (clear.raise .undefinedCell).resetIn = none ∧
    ∃ t, step ((clear.raise .undefinedCell).assertReset []) = .next t := ⟨by decide, rfl, _, rfl⟩

theorem witness_FaultsArePrecise : ∃ t, (State.facing bare 0x26660000#32).faultCause = .none ∧
    step (State.facing bare 0x26660000#32) = .next t ∧ t.faultCause ≠ .none := ⟨_, rfl, rfl, by decide⟩

theorem witness_MutatorsNeedInit : State.reset.init = false ∧ State.reset.faultCause ≠ .notInitialized := by decide

theorem witness_OutOfRangeCoordinatesFault : clear.init = true ∧ (6 ≤ (6#4).toNat ∨ 6 ≤ (5#4).toNat) ∧
    (6 ≤ (5#4).toNat ∨ 6 ≤ (6#4).toNat) ∧ (6 ≤ (15#4).toNat ∨ 6 ≤ (15#4).toNat) := by decide

theorem witness_UndefinedReadsFault : bare.init = true ∧ (5#4).toNat = (5 : Coord).val ∧ (0#4).toNat = (0 : Coord).val ∧
    bare.isDefined 5 0 = false ∧ bare.isDefined 0 0 = false ∧ State.reset.isDefined 5 5 = false := by decide

theorem witness_InitBindsTheBusOnce : State.reset.init = false ∧ clear.init = true := by decide

theorem witness_BrightSetsOrRejectsTheLevel : bare.init = true ∧ (15#8).toNat ≤ 15 ∧ 16 ≤ (16#8).toNat ∧
    16 ≤ (255#8).toNat ∧ State.reset.init = false := by decide

theorem witness_SetpOverwritesOneCell : bare.init = true ∧ (5#4).toNat = (5 : Coord).val ∧
    (0#4).toNat = (0 : Coord).val ∧ (6 ≤ (5#4).toNat ∨ 6 ≤ (6#4).toNat) ∧ State.reset.init = false := by decide

theorem witness_OrpSetsBitsOfOneCell : clear.init = true ∧ (5#4).toNat = (5 : Coord).val ∧ clear.isDefined 5 5 = true ∧
    bare.init = true ∧ bare.isDefined 5 5 = false ∧ (6 ≤ (6#4).toNat ∨ 6 ≤ (5#4).toNat) ∧
    State.reset.init = false := by decide

theorem witness_AndpClearsBitsOfOneCell : clear.init = true ∧ (5#4).toNat = (5 : Coord).val ∧
    clear.isDefined 5 5 = true ∧ bare.init = true ∧ bare.isDefined 5 5 = false ∧
    (6 ≤ (6#4).toNat ∨ 6 ≤ (5#4).toNat) ∧ State.reset.init = false := by decide

theorem witness_ClrAndFillWriteEveryCell : bare.init = true ∧ State.reset.init = false := by decide

theorem witness_RevComplementsEveryCell : clear.init = true ∧ clear.AllDefined ∧ bare.init = true ∧
    bare.isDefined 5 5 = false ∧ State.reset.init = false := by decide

theorem witness_GridPrimitiveLaws : clear.init = true ∧ clear.AllDefined ∧ (5#4).toNat = (5 : Coord).val ∧
    (0#4).toNat = (0 : Coord).val := by decide

theorem witness_CommandsAreIdempotentButRevAndInit : (∃ t, exec (.orp 5#4 0#4 0x80#8) clear = .next t ∧
      t.faultCause = .none) ∧ clear.init = true ∧ clear.AllDefined ∧ State.reset.init = false :=
  ⟨⟨_, rfl, rfl⟩, by decide⟩

/-- The same for its clause on SETALL: the same whole SETALL twice on the port. -/
theorem witness_CommandsAreIdempotentButRevAndInit_setall :
    (let h := HostCommand.load (Vector.replicate 36 0xFF#8)
     let s : State := { bare with stream := hostWords [h, h] }
     h.instr = .setall ∧ h.whole = true ∧ s.Ready ∧ s.init = true ∧ hostWords [h, h] <+: s.stream.drop s.pc) :=
  ⟨rfl, by decide, by decide, rfl, List.prefix_refl _⟩

theorem witness_SetallTakesItsPayload : bare.init = true ∧ State.reset.init = false ∧
    (let s := State.facing { bare with pendActive := true, pendCount := 7 } 0#32
     s.resetIn = none ∧ s.faultCause = .none ∧ s.pendActive = true ∧ s.nextWord = some 0#32 ∧ s.pendCount.val < 8) ∧
    (let s := State.facing { bare with pendActive := true, pendCount := 8 } 0#32
     s.resetIn = none ∧ s.faultCause = .none ∧ s.pendActive = true ∧ s.nextWord = some 0#32 ∧
       s.pendCount.val = 8) := by decide

/-- An initialised block with a whole SETALL on the port. -/
def loading : State := { bare with stream := (HostCommand.load (Vector.replicate 36 0xFF#8)).words }

theorem witness_SetallLoadsTheGridInTenSteps : loading.Ready ∧ loading.init = true ∧
    (HostCommand.load (Vector.replicate 36 0xFF#8)).words <+: loading.stream.drop loading.pc :=
  ⟨by decide, rfl, List.prefix_refl _⟩

theorem witness_GetallEmitsTheGrid : clear.AllDefined ∧ bare.isDefined 0 0 = false ∧
    (35 : Fin 36).val / 6 = (5 : Coord).val ∧ (35 : Fin 36).val % 6 = (5 : Coord).val := by decide

/-- The grid of `clear` with one lit cell, and that grid's SETALL on the port of another block. -/
theorem witness_GetallThenSetallRestoresTheGrid :
    (clear.setCell 0 0 0x81#8).AllDefined ∧
    (let t : State := { bare with stream := (HostCommand.load (clear.setCell 0 0 0x81#8).cells).words }
     t.Ready ∧ t.init = true ∧ (HostCommand.load (clear.setCell 0 0 0x81#8).cells).words <+: t.stream.drop t.pc) :=
  ⟨by decide, by decide, rfl, List.prefix_refl _⟩

theorem witness_MetaNumbersOverlayTheLitStencils : clear.init = true ∧ clear.AllDefined := by decide

theorem witness_MetaNumbersApplyTheOverlayMask : clear.init = true ∧ clear.AllDefined ∧ State.reset.init = false ∧
    bare.init = true ∧ bare.isDefined 5 5 = false := by decide

theorem witness_MetaNumberLaws : bare.init = true := by decide

theorem witness_UpdateIsTheMultiplexer : clear.init = true ∧ clear.AllDefined ∧ State.reset.init = false ∧
    bare.init = true ∧ bare.isDefined 0 0 = false := by decide

theorem witness_SegmentsLandAtTheirSlots :
    (11 : Fin 16).val = (if (1 : Fin 2) = 0 then 0 else SlotBase.six.toNat) + (5 : Coord).val ∧
    (15 : Fin 16).val = 2 * (7 : Fin 8).val + (11 : Fin 16).val / 8 ∧
    (∀ (r : Fin 2) (x : Coord), (if r = 0 then 0 else SlotBase.six.toNat) + x.val ≠ 8 * ((15 : Fin 16).val % 2) + 4) ∧
    (∀ (r : Fin 2) (x : Coord), (if r = 0 then 0 else SlotBase.eight.toNat) + x.val ≠ 8 * ((0 : Fin 16).val % 2) + 6) := by
  decide

theorem witness_CellBitsMapOneToOne : imageByte 7 (slotOf .eight 1 5) = imageByte 7 (slotOf .eight 1 5) := rfl

theorem witness_OneSegmentLightsOneImageBit : ∀ (y' x' : Coord) (p' : Fin 8),
    segmentBit ((clear.setCell 5 5 0x01#8).cells)[cellIx y' x'] p' = decide (y' = 5 ∧ x' = 5 ∧ p' = 7) := by decide

theorem witness_ImagesAreLinear : ∀ i : Fin 36,
    (Vector.replicate 36 0xFF#8)[i] = (Vector.replicate 36 0xF0#8)[i] ||| (Vector.replicate 36 0x0F#8)[i] := by decide

theorem witness_AUnitsImageDependsOnItsRowsOnly : ∀ y x : Coord, y.val = 2 * (1 : Fin 3).val ∨ y.val = 2 * (1 : Fin 3).val + 1 →
    clear.cells[cellIx y x] = ((clear.setCell 4 0 0xFF#8).setCell 1 5 0xFF#8).cells[cellIx y x] := by decide

theorem witness_EachCommandWritesOnlyItsState : ∃ t, exec .clr bare = .next t ∧ t.defined ≠ bare.defined :=
  ⟨_, rfl, by decide⟩

theorem witness_TraceOnlyGrows : ∃ t, (State.facing clear 0xD0000000#32).resetIn = none ∧
    step (State.facing clear 0xD0000000#32) = .next t := ⟨_, rfl, rfl⟩

theorem witness_OnlyResetClearsInitAndTags : ∃ t, (State.facing clear 0x70000000#32).resetIn = none ∧
    step (State.facing clear 0x70000000#32) = .next t ∧ clear.init = true ∧ clear.isDefined 5 5 = true :=
  ⟨_, rfl, rfl, rfl, by decide⟩

theorem witness_EveryStepKeepsTheInvariant : ∃ t, (State.facing bare 0x50000000#32).Inv ∧
    step (State.facing bare 0x50000000#32) = .next t :=
  ⟨_, ⟨by decide, by decide, by decide, by decide, by decide, by decide, by decide, by decide⟩, rfl⟩

/-- An undefined cell and the brightness before it is written may differ. -/
theorem witness_UnspecifiedContentsAreUnobservable :
    State.reset.Agree { State.reset with cells := Vector.replicate 36 0xFF#8, bright := 15#4 } :=
  ⟨rfl, by decide, rfl, rfl, by decide, rfl, rfl, rfl, by decide, rfl, rfl, rfl, rfl⟩

theorem witness_InterleavingKeepsWholeCommands :
    (let b := Vector.replicate 36 0xFF#8
     let s : State := { bare with stream := hostWords [⟨.clr, []⟩, HostCommand.load b, ⟨.update, []⟩] }
     dutyKept [⟨.clr, []⟩, ⟨.update, []⟩] = true ∧ dutyKept [HostCommand.load b] = true ∧
     Shuffle [⟨.clr, []⟩, ⟨.update, []⟩] [HostCommand.load b] [⟨.clr, []⟩, HostCommand.load b, ⟨.update, []⟩] ∧
     s.Ready ∧ hostWords [⟨.clr, []⟩, HostCommand.load b, ⟨.update, []⟩] <+: s.stream.drop s.pc) :=
  ⟨by decide, by decide, .takeLeft (.takeRight (.takeLeft .done)), by decide, List.prefix_refl _⟩

theorem witness_ReadyBlockTakesAWholeCommand : loading.Ready ∧
    (HostCommand.load (Vector.replicate 36 0xFF#8)).whole = true ∧
    (HostCommand.load (Vector.replicate 36 0xFF#8)).words <+: loading.stream.drop loading.pc :=
  ⟨by decide, by decide, List.prefix_refl _⟩

/-- The same for the branch that faults at the header: a SETALL on a block before INIT. -/
theorem witness_ReadyBlockTakesAWholeCommand_fault :
    (let s : State := { State.reset with stream := (HostCommand.load (Vector.replicate 36 0xFF#8)).words }
     s.Ready ∧ (HostCommand.load (Vector.replicate 36 0xFF#8)).words <+: s.stream.drop s.pc ∧
     (nextOf (step s)).map (fun t => (t.faultCause, t.pc)) = some (.notInitialized, 0)) :=
  ⟨by decide, List.prefix_refl _, by decide⟩

theorem witness_HostWritesDoNotDisturbAStep : (∃ t, (State.facing clear 0xD0000000#32).resetIn = none ∧
    step (State.facing clear 0xD0000000#32) = .next t) ∧ (clear.assertReset []).resetIn ≠ none := ⟨⟨_, rfl, rfl⟩, by decide⟩

theorem witness_HostsNeverSplitACommand : (SharedPort.mk clear none 0).block.resetIn = none ∧
    (HostCommand.load (Vector.replicate 36 0xFF#8)).whole = true ∧
    0 < 9 ∧ 9 < (HostCommand.load (Vector.replicate 36 0xFF#8)).words.length ∧ HostAgent.receiver ≠ .mainLoop ∧
    ((SharedPort.mk clear none 0).write .mainLoop 0x50000000#32).isSome = true := by decide

end Sys2Proof.Tests
end

section
/-! PROOFS. Configurations (spec/00_scope.md R7, R8): the machine of the device is the configured one, and a raw
configuration is loaded exactly when it is well-formed, into the layout of 20_memory.md R52. -/

namespace Sys2Proof

theorem bytesInRange_iff {l : List Nat} : bytesInRange l = true ↔ ∀ v ∈ l, v ≤ 255 := by
  simp [bytesInRange, Nat.lt_succ_iff]

/-- A clause of a check that names the first one broken: the check passes when the clause and the rest do. -/
theorem ite_some_eq_none {α : Type} {p : Prop} [Decidable p] {e : α} {rest : Option α} :
    (if p then some e else rest) = none ↔ ¬ p ∧ rest = none := by
  by_cases hp : p <;> simp [hp]

/-- The entry range of a table of tables is the range of its flat layout. -/
theorem bytesInRange_flatten_flatten {rom : List (List (List Nat))} :
    bytesInRange rom.flatten.flatten = true ↔ ∀ pl ∈ rom, ∀ row ∈ pl, ∀ v ∈ row, v ≤ 255 := by
  rw [bytesInRange_iff]
  simp only [List.mem_flatten]
  constructor
  · intro h pl hpl row hrow v hv
    exact h v ⟨row, ⟨pl, hpl, hrow⟩, hv⟩
  · rintro h v ⟨row, ⟨pl, hpl, hrow⟩, hv⟩
    exact h pl hpl row hrow v hv

/-- An entry in range is not cut by the eight bits it is kept in. -/
theorem toNat_ofNat_getD {l : List Nat} (h : bytesInRange l = true) (i : Nat) :
    (BitVec.ofNat 8 (l.getD i 0)).toNat = l.getD i 0 := by
  have hle : l.getD i 0 ≤ 255 := by
    by_cases hi : i < l.length
    · rw [List.getD_eq_getElem _ _ hi]
      exact bytesInRange_iff.mp h _ (List.getElem_mem hi)
    · rw [List.getD_eq_default _ _ (by omega)]
      omega
  rw [BitVec.toNat_ofNat, Nat.mod_eq_of_lt (by omega)]

/-- Entry `j` of row `i` of a table whose rows all have `n` entries stands at `n * i + j` of its flat layout. -/
theorem getD_flatten_of_length_eq {α : Type} {n j : Nat} (hj : j < n) (d : α) :
    ∀ (rows : List (List α)) (i : Nat), (∀ row ∈ rows, row.length = n) →
      rows.flatten.getD (n * i + j) d = (rows.getD i []).getD j d
  | [], i, _ => by simp
  | row :: rows, 0, h => by
    have hrow : row.length = n := h row List.mem_cons_self
    rw [List.flatten_cons, List.getD_append _ _ _ _ (by omega)]
    simp
  | row :: rows, i + 1, h => by
    have hrow : row.length = n := h row List.mem_cons_self
    have hix : n * (i + 1) + j - row.length = n * i + j := by rw [hrow, Nat.mul_succ]; omega
    rw [List.flatten_cons, List.getD_append_right _ _ _ _ (by rw [hrow, Nat.mul_succ]; omega), hix,
      getD_flatten_of_length_eq hj d rows i fun r hr => h r (List.mem_cons_of_mem _ hr), List.getD_cons_succ]

/-- The flat layout of the stencil ROM: entry `(p, x, y)` at `36p + 6y + x` (20_memory.md R52). -/
theorem getD_stencil_flat {rom : List (List (List Nat))}
    (hsize : ∀ pl ∈ rom, pl.length = 6 ∧ ∀ row ∈ pl, row.length = 6) (p : Nat) (y x : Coord) :
    rom.flatten.flatten.getD (36 * p + 6 * y.val + x.val) 0 = ((rom.getD p []).getD y.val []).getD x.val 0 := by
  have hrows : ∀ row ∈ rom.flatten, row.length = 6 := by
    intro row hrow
    obtain ⟨pl, hpl, hmem⟩ := List.mem_flatten.mp hrow
    exact (hsize pl hpl).2 row hmem
  have hix : 36 * p + 6 * y.val + x.val = 6 * (6 * p + y.val) + x.val := by omega
  rw [hix, getD_flatten_of_length_eq x.isLt 0 _ _ hrows,
    getD_flatten_of_length_eq y.isLt [] _ _ fun pl hpl => (hsize pl hpl).1]

namespace RawConfig

variable {r : RawConfig} {c : Config}

/-- No clause of R8 is broken exactly when each of them holds. -/
theorem firstError_eq_none :
    r.firstError = none ↔
      (r.stencilRom.length = 8 ∧ (∀ pl ∈ r.stencilRom, pl.length = 6 ∧ ∀ row ∈ pl, row.length = 6) ∧
        r.nst.length = 16 ∧ (∀ pl ∈ r.stencilRom, ∀ row ∈ pl, ∀ v ∈ row, v ≤ 255) ∧ (∀ v ∈ r.nst, v ≤ 255) ∧
        r.unitAddr.length = 3 ∧ (r.row1SlotBase = 6 ∨ r.row1SlotBase = 8)) := by
  have hplanes : r.stencilRom.all (fun plane => plane.length == 6 && plane.all (·.length == 6)) = true ↔
      ∀ pl ∈ r.stencilRom, pl.length = 6 ∧ ∀ row ∈ pl, row.length = 6 := by simp
  have hbase : ¬ (¬ r.row1SlotBase = 6 ∧ ¬ r.row1SlotBase = 8) ↔ r.row1SlotBase = 6 ∨ r.row1SlotBase = 8 := by omega
  simp only [firstError, ite_some_eq_none, hplanes, bytesInRange_flatten_flatten, @bytesInRange_iff r.nst, hbase,
    ne_eq, not_not, and_assoc, and_true]

/-- The configuration whose tables hold the entries of a raw one. -/
def tables (r : RawConfig) : Config where
  rom := Vector.ofFn fun i => BitVec.ofNat 8 (r.stencilRom.flatten.flatten.getD i 0)
  nst := Vector.ofFn fun i => BitVec.ofNat 8 (r.nst.getD i 0)
  unitAddr := Vector.ofFn fun u => r.unitAddr.getD u default
  slotBase := if r.row1SlotBase = 6 then .six else .eight
  gridReset := r.gridReset

/-- What loading answers: the tables of a raw configuration that breaks no clause. -/
theorem load_eq_ok : r.load = .ok c ↔ r.firstError = none ∧ c = r.tables := by
  unfold load
  split
  next e he => simp [he]
  next hnone => simp [hnone, tables, eq_comm]

theorem exists_load_eq_ok : (∃ c, r.load = .ok c) ↔ r.firstError = none := by
  simp [load_eq_ok]

/-! What the loaded tables hold, each under the clauses of R8 that it needs. -/

theorem toNat_stencilEntry_tables (hsize : ∀ pl ∈ r.stencilRom, pl.length = 6 ∧ ∀ row ∈ pl, row.length = 6)
    (hrange : ∀ pl ∈ r.stencilRom, ∀ row ∈ pl, ∀ v ∈ row, v ≤ 255) (p : Fin 8) (y x : Coord) :
    (Machine.stencilEntry r.tables p x y).toNat = ((r.stencilRom.getD p.val []).getD y.val []).getD x.val 0 := by
  rw [Machine.stencilEntry, tables, Vector.getElem_ofFn,
    toNat_ofNat_getD (bytesInRange_flatten_flatten.mpr hrange), getD_stencil_flat hsize]

theorem toNat_lutEntry_tables (hrange : ∀ v ∈ r.nst, v ≤ 255) (d : Fin 16) :
    (Machine.lutEntry r.tables d).toNat = r.nst.getD d.val 0 := by
  rw [Machine.lutEntry, tables, Fin.getElem_fin, Vector.getElem_ofFn,
    toNat_ofNat_getD (bytesInRange_iff.mpr hrange)]

theorem getElem?_unitAddr_eq_tables (hlen : r.unitAddr.length = 3) (u : Fin 3) :
    r.unitAddr[u.val]? = some (Machine.unitAddress r.tables u) := by
  have hu : u.val < r.unitAddr.length := by omega
  rw [Machine.unitAddress, tables, Fin.getElem_fin, Vector.getElem_ofFn, List.getD_eq_getElem _ _ hu,
    List.getElem?_eq_getElem hu]

theorem toNat_slotBase_tables (hbase : r.row1SlotBase = 6 ∨ r.row1SlotBase = 8) :
    r.tables.slotBase.toNat = r.row1SlotBase := by
  rcases hbase with h | h <;> simp [tables, h, SlotBase.toNat]

end RawConfig

namespace Machine

theorem stepRaw_of_load_ok {r : RawConfig} {c : Config} (h : r.load = .ok c) (s : State) :
    stepRaw r s = stepWith c s := by
  simp only [stepRaw, h]

theorem stepRaw_of_load_error {r : RawConfig} {e : ConfigError} (h : r.load = .error e) (s : State) :
    stepRaw r s = .refused (.illFormedConfig e) := by
  simp only [stepRaw, h]

/-- Settles O18: loading succeeds exactly on no broken clause, and the loaded configuration is `RawConfig.tables`. -/
theorem illFormedConfigurationsAreRefused : Obligations.IllFormedConfigurationsAreRefused := by
  unfold Obligations.IllFormedConfigurationsAreRefused
  refine ⟨fun r => RawConfig.exists_load_eq_ok.trans RawConfig.firstError_eq_none,
    fun r e s h => stepRaw_of_load_error h s, fun r c s h => ⟨stepRaw_of_load_ok h s, ?_⟩⟩
  obtain ⟨hnone, rfl⟩ := RawConfig.load_eq_ok.mp h
  obtain ⟨-, hsize, -, hrom, hnst, hunits, hbase⟩ := RawConfig.firstError_eq_none.mp hnone
  exact ⟨RawConfig.toNat_stencilEntry_tables hsize hrom, RawConfig.toNat_lutEntry_tables hnst,
    RawConfig.getElem?_unitAddr_eq_tables hunits, RawConfig.toNat_slotBase_tables hbase, rfl⟩

/-- Settles O17: both are the same port, over the same meanings (`exec_eq_execWith`) and the same reset state. -/
theorem deviceIsTheConfiguredMachine : Obligations.DeviceIsTheConfiguredMachine := by
  unfold Obligations.DeviceIsTheConfiguredMachine
  intro s
  have hexec : exec = execWith Config.device := funext₂ exec_eq_execWith
  rw [step, stepWith, hexec, State.reset]

end Machine

end Sys2Proof
end

section
/-! PROOFS. The equations of a running step (spec/60_exceptions.md R238), what a payload word leaves unchanged
(41_bulk_transfer.md R131), and the frame of a command's effect, one lemma for each piece of state (10_state.md R20). -/

namespace Sys2Proof.Machine

/-! A step outside reset of an unfaulted block with a word on the port -/

section Running

variable {s : State} {w : Word} (hr : s.resetIn = none) (hf : s.faultCause = .none) (hw : s.nextWord = some w)

include hr hf hw

theorem step_of_word : step s = settleWord exec w s := by
  have hnf : s.faulted = false := (faulted_eq_false s).mpr hf
  simp [step, portStep, hr, hnf, hw]

theorem step_of_payload (hp : s.pendActive = true) : step s = .next (takePayload w s) := by
  simp [step_of_word hr hf hw, settleWord, hp]

theorem step_of_illegal {e : DecodeError} (hp : s.pendActive = false) (he : decode w = .error e) :
    step s = .next (s.raise .illegalCommand) := by
  simp [step_of_word hr hf hw, settleWord, settleHeader, hp, he]

theorem step_of_command {i : Instr} (hp : s.pendActive = false) (hi : decode w = .ok i) : step s = exec i s := by
  simp [step_of_word hr hf hw, settleWord, settleHeader, hp, hi]

end Running

/-- Outside reset, a step takes a payload word, raises a fault or has the effect of a command, in an unfaulted block. -/
theorem running_step_cases {s t : State} (hr : s.resetIn = none) (h : step s = .next t) :
    s.faultCause = .none ∧ ((∃ w, t = takePayload w s) ∨ (∃ f, f ≠ .none ∧ t = s.raise f) ∨
      ∃ i, t = commandEffect Config.device i s) := by
  rcases step_cases h with ⟨ws, hws, -⟩ | ⟨-, hf, w, -, hword⟩
  · simp [hr] at hws
  · refine ⟨hf, ?_⟩
    rcases hword with ⟨-, ht⟩ | ⟨-, -, ht⟩ | ⟨-, i, -, hi⟩
    · exact .inl ⟨w, ht⟩
    · exact .inr (.inl ⟨_, by decide, ht⟩)
    · rcases exec_cases hi with ⟨hc, ht⟩ | ⟨-, ht⟩
      · exact .inr (.inl ⟨_, hc, ht⟩)
      · exact .inr (.inr ⟨i, ht⟩)

/-! What taking a payload word does to each piece of state that it shares with the commands -/

section Payload

variable (w : Word) (s : State)

@[simp] theorem takePayload_init : (takePayload w s).init = s.init := by unfold takePayload; split <;> simp
@[simp] theorem takePayload_brightDef : (takePayload w s).brightDef = s.brightDef := by
  unfold takePayload; split <;> simp
@[simp] theorem takePayload_faultCause : (takePayload w s).faultCause = s.faultCause := by
  unfold takePayload; split <;> simp
@[simp] theorem takePayload_pc : (takePayload w s).pc = s.pc + 1 := by unfold takePayload; split <;> simp
@[simp] theorem takePayload_stream : (takePayload w s).stream = s.stream := by unfold takePayload; split <;> simp
@[simp] theorem takePayload_resetIn : (takePayload w s).resetIn = s.resetIn := by unfold takePayload; split <;> simp

/-- A tag stays as it is until the ninth word, which sets them all. -/
theorem takePayload_isDefined_of_isDefined {y x : Coord} (h : s.isDefined y x = true) :
    (takePayload w s).isDefined y x = true := by
  by_cases hlast : s.pendCount.val = 8
  · simp [takePayload_of_last w hlast, State.isDefined]
  · rw [takePayload_of_not_last w hlast]; exact h

theorem takePayload_with_trace (tr : List Record) :
    takePayload w { s with trace := tr } = { takePayload w s with trace := tr } := by
  by_cases hlast : s.pendCount.val = 8
  · rw [takePayload_of_last w hlast, takePayload_of_last (s := { s with trace := tr }) w hlast]
    simp only [State.loadPayload, State.setGrid, State.advance, State.storePayload]
  · rw [takePayload_of_not_last w hlast, takePayload_of_not_last (s := { s with trace := tr }) w hlast]
    rfl

end Payload

/-! What the effect of a command does to each piece of state -/

theorem setCell_isDefined_of_isDefined (s : State) {y x y' x' : Coord} (v : Byte) (h : s.isDefined y' x' = true) :
    (s.setCell y x v).isDefined y' x' = true := by
  by_cases hc : y' = y ∧ x' = x
  · obtain ⟨rfl, rfl⟩ := hc; exact setCell_isDefined_same s y' x' v
  · rw [setCell_isDefined_other s v hc, h]

theorem levelLegal_eq_false_iff {level : Byte} : levelLegal level = false ↔ 16 ≤ level.toNat := by
  simp [levelLegal]

/-- The records a command emits when none of its checks fails (10_state.md R33). -/
def emittedRecords (c : Config) (i : Instr) (s : State) : List Record :=
  match i with
  | .init => [.busInit]
  | .getall => [.resp s.gridBytes]
  | .bright level => if levelLegal level then brightnessRecords c (levelBits level) else [.logBrightnessRejected level]
  | .update => displayRecords c s.cells
  | .setp _ _ _ | .orp _ _ _ | .andp _ _ _ | .clr | .fill | .rev | .setall | .metaNumber _ | .metaReverse _ => []

theorem emittedRecords_length_le (c : Config) (i : Instr) (s : State) : (emittedRecords c i s).length ≤ 3 := by
  cases i with
  | bright level => by_cases h : levelLegal level = true <;> simp [emittedRecords, h, brightnessRecords]
  | update => simp [emittedRecords, displayRecords]
  | _ => simp [emittedRecords]

section Effect

variable (c : Config) (i : Instr) (s : State)

@[simp] theorem commandEffect_pc : (commandEffect c i s).pc = s.pc + 1 := by
  cases i <;> simp [commandEffect, cellEffect, apply_ite State.pc]
@[simp] theorem commandEffect_faultCause : (commandEffect c i s).faultCause = s.faultCause := by
  cases i <;> simp [commandEffect, cellEffect, apply_ite State.faultCause]
@[simp] theorem commandEffect_pendWords : (commandEffect c i s).pendWords = s.pendWords := by
  cases i <;> simp [commandEffect, cellEffect, apply_ite State.pendWords]
@[simp] theorem commandEffect_stream : (commandEffect c i s).stream = s.stream := by
  cases i <;> simp [commandEffect, cellEffect, apply_ite State.stream]
@[simp] theorem commandEffect_resetIn : (commandEffect c i s).resetIn = s.resetIn := by
  cases i <;> simp [commandEffect, cellEffect, apply_ite State.resetIn]
theorem commandEffect_trace : (commandEffect c i s).trace = s.trace ++ emittedRecords c i s := by
  cases i <;> simp [commandEffect, cellEffect, emittedRecords, apply_ite State.trace, apply_ite (s.trace ++ ·)]

/-- The trace is written and never read: the effect on any other trace differs in the trace alone. -/
theorem commandEffect_with_trace (tr : List Record) :
    commandEffect c i { s with trace := tr } =
      { commandEffect c i s with trace := tr ++ emittedRecords c i s } := by
  cases i with
  | bright level =>
    by_cases h : levelLegal level = true <;>
      simp [commandEffect, emittedRecords, h, State.acceptLevel, State.advance, State.emit]
  | _ =>
    simp [commandEffect, cellEffect, emittedRecords, State.setGrid, State.setCell, State.advance, State.emit,
      State.cell]

variable {c i s}

theorem command_of_emittedRecords_ne_nil (h : emittedRecords c i s ≠ []) :
    i = .init ∨ i = .getall ∨ i = .update ∨ ∃ level, i = .bright level := by
  cases i <;> simp_all [emittedRecords]

theorem commandEffect_grid_of_not_writesGrid (h : writesGrid i = false) :
    (commandEffect c i s).cells = s.cells ∧ (commandEffect c i s).defined = s.defined := by
  cases i <;> simp_all [commandEffect, writesGrid, apply_ite State.cells, apply_ite State.defined]

theorem commandEffect_init_of_ne (h : i ≠ .init) : (commandEffect c i s).init = s.init := by
  cases i <;> simp_all [commandEffect, cellEffect, apply_ite State.init]

theorem commandEffect_brightness_of_not_legal (h : ∀ level, i = .bright level → levelLegal level = false) :
    (commandEffect c i s).bright = s.bright ∧ (commandEffect c i s).brightDef = s.brightDef := by
  cases i with
  | bright level => simp [commandEffect, h level rfl]
  | _ => simp [commandEffect, cellEffect]

theorem commandEffect_pending_of_ne (h : i ≠ .setall) :
    (commandEffect c i s).pendActive = s.pendActive ∧ (commandEffect c i s).pendCount = s.pendCount := by
  cases i <;> simp_all [commandEffect, cellEffect, apply_ite State.pendActive, apply_ite State.pendCount]

theorem commandEffect_init_of_init (h : s.init = true) : (commandEffect c i s).init = true := by
  by_cases hi : i = .init
  · simp [hi, commandEffect]
  · rw [commandEffect_init_of_ne hi, h]

theorem commandEffect_brightDef_of_brightDef (h : s.brightDef = true) : (commandEffect c i s).brightDef = true := by
  cases i <;> simp [commandEffect, cellEffect, apply_ite State.brightDef, h]

/-- A grid writer only sets tags, and the other commands leave them. -/
theorem commandEffect_isDefined_of_isDefined {y x : Coord} (h : s.isDefined y x = true) :
    (commandEffect c i s).isDefined y x = true := by
  cases hg : writesGrid i with
  | false => rwa [State.isDefined, (commandEffect_grid_of_not_writesGrid hg).2]
  | true => cases i <;> simp_all [writesGrid, commandEffect, cellEffect, setCell_isDefined_of_isDefined]

end Effect

theorem firstCause_with_trace (i : Instr) (s : State) (tr : List Record) :
    firstCause i { s with trace := tr } = firstCause i s := rfl

/-- What a command does on any other trace: the same, and it emits the same records. -/
theorem exec_with_trace {i : Instr} {s t : State} (h : exec i s = .next t) :
    ∃ rs : List Record, rs.length ≤ 3 ∧
      ∀ tr : List Record, exec i { s with trace := tr } = .next { t with trace := tr ++ rs } := by
  rcases exec_cases h with ⟨hc, rfl⟩ | ⟨hc, rfl⟩
  · refine ⟨[], by simp, fun tr => ?_⟩
    rw [exec_spec, firstCause_with_trace, if_neg hc, List.append_nil]
    rfl
  · refine ⟨emittedRecords Config.device i s, emittedRecords_length_le .., fun tr => ?_⟩
    rw [exec_spec, firstCause_with_trace, if_pos hc, commandEffect_with_trace]

end Sys2Proof.Machine
end

section
/-! PROOFS. What every step and every command keeps of the state (spec/10_state.md R20 to R35): the position on the
port, the trace, the bits that only reset clears, and the state that reset leaves. -/

namespace Sys2Proof.Machine

/-- Settles O14, by what a running step can do: only a raised fault leaves `pc` where it is. -/
theorem pcCountsTheWordsTaken : Obligations.PcCountsTheWordsTaken := by
  unfold Obligations.PcCountsTheWordsTaken
  intro s t hr h
  obtain ⟨hf, ⟨w, rfl⟩ | ⟨f, hne, rfl⟩ | ⟨i, rfl⟩⟩ := running_step_cases hr h
  · simp [hr, hf]
  · simp [hr, hne]
  · simp [hr, hf]

/-- Settles O47: a raised fault writes none of this state, and the effect of a command is framed piece by piece. -/
theorem eachCommandWritesOnlyItsState : Obligations.EachCommandWritesOnlyItsState := by
  unfold Obligations.EachCommandWritesOnlyItsState
  intro i s t h
  rcases exec_cases h with ⟨-, rfl⟩ | ⟨-, rfl⟩
  · simp
  · refine ⟨fun hne => ?_, fun hne => ?_, fun hne => ?_, fun hne => ?_, commandEffect_pendWords .., fun hne => ?_,
      commandEffect_stream .., commandEffect_resetIn ..⟩
    · by_contra hw
      have hsame := commandEffect_grid_of_not_writesGrid (c := Config.device) (s := s) (Bool.eq_false_iff.mpr hw)
      exact hne.elim (· hsame.1) (· hsame.2)
    · by_contra hi
      exact hne (commandEffect_init_of_ne hi)
    · by_contra hno
      have hbad : ∀ level, i = .bright level → levelLegal level = false := by
        intro level hi
        have hgt : ¬ level.toNat ≤ 15 := fun hle => hno ⟨level, hi, hle⟩
        exact levelLegal_eq_false_iff.mpr (by omega)
      have hsame := commandEffect_brightness_of_not_legal (c := Config.device) (s := s) hbad
      exact hne.elim (· hsame.1) (· hsame.2)
    · by_contra hi
      have hsame := commandEffect_pending_of_ne (c := Config.device) (s := s) hi
      exact hne.elim (· hsame.1) (· hsame.2)
    · rw [commandEffect_trace] at hne
      exact command_of_emittedRecords_ne_nil (c := Config.device) (s := s) fun hnil => hne (by simp [hnil])

/-- Settles O48: the port does not look at the trace, so the same case of a step applies on any other trace. -/
theorem traceOnlyGrows : Obligations.TraceOnlyGrows := by
  unfold Obligations.TraceOnlyGrows
  intro s t hr h
  rcases step_cases h with ⟨ws, hws, -⟩ | ⟨-, hf, w, hw, hword⟩
  · simp [hr] at hws
  · rcases hword with ⟨hp, rfl⟩ | ⟨hp, ⟨e, he⟩, rfl⟩ | ⟨hp, i, hi, hexec⟩
    · refine ⟨[], by simp, fun tr => ?_⟩
      rw [step_of_payload (s := { s with trace := tr }) hr hf hw hp, takePayload_with_trace, List.append_nil]
    · refine ⟨[], by simp, fun tr => ?_⟩
      rw [step_of_illegal (s := { s with trace := tr }) hr hf hw hp he, List.append_nil]
      rfl
    · obtain ⟨rs, hlen, hrs⟩ := exec_with_trace hexec
      refine ⟨rs, hlen, fun tr => ?_⟩
      rw [step_of_command (s := { s with trace := tr }) hr hf hw hp hi, hrs]

/-- Settles O49: a payload word and the effect of a command only ever set these bits, and a fault leaves them. -/
theorem onlyResetClearsInitAndTags : Obligations.OnlyResetClearsInitAndTags := by
  unfold Obligations.OnlyResetClearsInitAndTags
  intro s t hr h
  obtain ⟨-, ⟨w, rfl⟩ | ⟨f, -, rfl⟩ | ⟨i, rfl⟩⟩ := running_step_cases hr h
  · exact ⟨by simp, by simp, fun y x => takePayload_isDefined_of_isDefined w s⟩
  · exact ⟨id, id, fun y x => id⟩
  · exact ⟨commandEffect_init_of_init, commandEffect_brightDef_of_brightDef,
      fun y x => commandEffect_isDefined_of_isDefined⟩

/-! The words of an opcode-table instruction on the port (10_state.md R28, 30_encoding.md R76) -/

/-- The words of a one-word instruction: the word, and then the nine zero words of the longest command. -/
theorem tableWords_of_word (w : Word) : tableWords 32 w.toNat = w :: List.replicate 9 0#32 := by
  have hw : BitVec.ofNat 32 (w.toNat % 2 ^ 32) = w := by
    rw [Nat.mod_eq_of_lt w.isLt, BitVec.ofNat_toNat, BitVec.setWidth_eq]
  simpa [tableWords, List.range_succ, Nat.mod_one] using hw

theorem presentWords_ready (s : State) (ws : List Word) : (s.presentWords ws).Ready := ⟨rfl, rfl, rfl⟩

/-- The first word presented is the next one the block takes. -/
theorem presentWords_nextWord (s : State) (w : Word) (ws : List Word) :
    (s.presentWords (w :: ws)).nextWord = some w := by
  have hlen : (s.stream.take s.pc ++ List.replicate (s.pc - s.stream.length) 0#32).length = s.pc := by
    simp only [List.length_append, List.length_take, List.length_replicate]
    omega
  simp only [State.nextWord, State.presentWords, List.append_assoc _ (w :: ws)]
  rw [List.getElem?_append_right hlen.le, hlen]
  simp

/-- Settles O11: the presented state is ready and has the word as its next one. -/
theorem fetchedWordRunsNext : Obligations.FetchedWordRunsNext := by
  unfold Obligations.FetchedWordRunsNext
  intro s w i hi
  simp only [State.withFetchWord, decodeTableWord, tableWords_of_word]
  obtain ⟨hr, hf, hp⟩ := presentWords_ready s (w :: List.replicate 9 0#32)
  exact ⟨step_of_command hr hf (presentWords_nextWord ..) hp hi, by simp [hi, Except.toOption]⟩

/-- Settles O16, one value of GRID_RESET after the other: they differ in the tags alone. -/
theorem resetLeavesTheSpecValues : Obligations.ResetLeavesTheSpecValues := by
  unfold Obligations.ResetLeavesTheSpecValues
  intro g
  refine ⟨fun y x => ?_, fun _ y x => ?_, rfl, rfl, rfl, rfl, rfl, rfl, rfl⟩
  · cases g <;> simp [State.isDefined]
  · simp [State.cell]

/-- Settles O50: after reset nothing is defined, pending, emitted or taken. -/
theorem resetMeetsTheInvariant : Obligations.ResetMeetsTheInvariant := by
  unfold Obligations.ResetMeetsTheInvariant
  rw [reset_eq_resetWith_undef]
  exact {
    slot_in_range := by simp
    pending_ok := by simp
    count_ok := fun _ => rfl
    bright_ok := by simp
    uninit_ok := fun _ => ⟨fun i => by simp, rfl⟩
    pc_ok := by simp
    bus_init_once := by simp
    bright_sent := rfl }

end Sys2Proof.Machine
end

section
/-! PROOFS. What the port is sent (spec/30_encoding.md R76): the byte transport keeps each word, the bytes of a word
being its quarters (20_memory.md R56), and the header of a command decodes to that command. -/

namespace Sys2Proof

/-- The four bytes of a word make it up again. -/
@[simp] theorem wordOfBytes_quarters (w : Word) :
    wordOfBytes (w.extractLsb' 24 8) (w.extractLsb' 16 8) (w.extractLsb' 8 8) (w.extractLsb' 0 8) = w := by
  rw [wordOfBytes, BitVec.extractLsb'_append_extractLsb'_eq_extractLsb' (show 24 = 16 + 8 from rfl),
    BitVec.extractLsb'_append_extractLsb'_eq_extractLsb' (show 16 = 8 + 8 from rfl),
    BitVec.extractLsb'_append_extractLsb'_eq_extractLsb' (show 8 = 0 + 8 from rfl)]
  exact BitVec.extractLsb'_eq_self

/-- Words sent as bytes arrive as they were sent. -/
theorem wordsOfBytes_flatMap_wordBytes (ws : List Word) : wordsOfBytes (ws.flatMap wordBytes) = .ok ws := by
  induction ws with
  | nil => rfl
  | cons w ws ih =>
    rw [List.flatMap_cons, wordBytes]
    simp [wordsOfBytes, ih, Except.map]

/-- The bytes of a word decode as the word does, and the bytes after them are left. -/
theorem decodeBytes_wordBytes_append (w : Word) (rest : List Byte) :
    decodeBytes (wordBytes w ++ rest) = (decode w).map (·, rest) := by
  simp [wordBytes, decodeBytes]

/-- Settles O7: the four bytes of a word are its quarters, and they make it up again. -/
theorem byteTransportKeepsTheWords : Obligations.ByteTransportKeepsTheWords := by
  unfold Obligations.ByteTransportKeepsTheWords
  exact ⟨fun _ => rfl, wordsOfBytes_flatMap_wordBytes, decodeBytes_wordBytes_append⟩

/-- The header of every command has the fixed bits of its format (R72). -/
theorem header_format (i : Instr) : Laws.HeaderFormat.Statement i := by
  cases i with
  | init => exact Laws.HeaderFormat.init
  | setp x y pat => exact Laws.HeaderFormat.setp x y pat
  | orp x y pat => exact Laws.HeaderFormat.orp x y pat
  | andp x y pat => exact Laws.HeaderFormat.andp x y pat
  | clr => exact Laws.HeaderFormat.clr
  | fill => exact Laws.HeaderFormat.fill
  | rev => exact Laws.HeaderFormat.rev
  | setall => exact Laws.HeaderFormat.setall
  | getall => exact Laws.HeaderFormat.getall
  | metaNumber digit => exact Laws.HeaderFormat.metaNumber digit
  | metaReverse digit => exact Laws.HeaderFormat.metaReverse digit
  | bright level => exact Laws.HeaderFormat.bright level
  | update => exact Laws.HeaderFormat.update

/-- The header of a command holds its operands in the fields they are taken from (R74). -/
@[simp] theorem instr_header (i : Instr) : i.opcode.instr (header i) = i := by
  cases i <;> simp [Instr.opcode, Opcode.instr, header]

/-- The header of a command decodes to the command. -/
@[simp] theorem decode_header (i : Instr) : decode (header i) = .ok i := by
  obtain ⟨hop, hmask⟩ := header_format i
  exact decode_eq_ok.mpr ⟨i.opcode, hop, hmask, (instr_header i).symm⟩

end Sys2Proof
end

section
/-! PROOFS. A whole command on the port (spec/60_exceptions.md R252): the steps that take its words do what taking it at
once does, and the payload of a SETALL ends in one known state (41_bulk_transfer.md R131). -/

namespace Sys2Proof.Machine

/-- The next word and the words after it, when some words stand on the port at `pc`. -/
theorem nextWord_of_words_at_pc {s : State} {w : Word} {ws : List Word} (h : w :: ws <+: s.stream.drop s.pc) :
    s.nextWord = some w ∧ ws <+: s.stream.drop (s.pc + 1) := by
  obtain ⟨rest, hrest⟩ := h
  constructor
  · have hhead := congrArg (·[0]?) hrest
    simpa [State.nextWord] using hhead.symm
  · have htail := congrArg (List.drop 1) hrest
    exact ⟨rest, by simpa using htail⟩

/-- A payload word before the ninth leaves the block inside the payload, with one more word counted. -/
theorem takePayload_pending {s : State} (w : Word) (h : s.pendCount.val < 8) :
    (takePayload w s).pendActive = s.pendActive ∧ (takePayload w s).pendCount.val = s.pendCount.val + 1 := by
  simp [takePayload_of_not_last w h.ne]

/-- Payload words on the port are taken one a step, as many as the payload still lacks or fewer. -/
theorem runSteps_payload (ws : List Word) {s : State} (hr : s.resetIn = none) (hf : s.faultCause = .none)
    (hp : s.pendActive = true) (hlen : s.pendCount.val + ws.length ≤ 9) (hws : ws <+: s.stream.drop s.pc) :
    runSteps ws.length s = .next (ws.foldl (fun u w => takePayload w u) s) := by
  induction ws generalizing s with
  | nil => rfl
  | cons w ws ih =>
    obtain ⟨hw, hrest⟩ := nextWord_of_words_at_pc hws
    rw [List.length_cons, runSteps_of_step (step_of_payload hr hf hw hp), List.foldl_cons]
    rw [List.length_cons] at hlen
    cases ws with
    | nil => rfl
    | cons w' ws =>
      obtain ⟨hactive, hcount⟩ := takePayload_pending w (s := s) (by simp at hlen; omega)
      exact ih (by simp [hr]) (by simp [hf]) (hactive.trans hp) (by omega) (by simpa using hrest)

theorem payloadLength_of_ne {i : Instr} (h : i ≠ .setall) : i.payloadLength = 0 := by
  cases i with
  | setall => exact absurd rfl h
  | _ => rfl

/-- A whole command that passes its checks is taken from the port in one step a word (R252). -/
theorem runSteps_words {s : State} {h : HostCommand} (hs : s.Ready) (hwhole : h.whole = true)
    (hc : firstCause h.instr s = .none) (hws : h.words <+: s.stream.drop s.pc) :
    runSteps h.words.length s =
      .next (h.payload.foldl (fun u w => takePayload w u) (commandEffect Config.device h.instr s)) := by
  obtain ⟨hr, hf, hp⟩ := hs
  obtain ⟨hw, hpayload⟩ := nextWord_of_words_at_pc hws
  have hlen : h.payload.length = h.instr.payloadLength := by simpa [HostCommand.whole] using hwhole
  have hstep : step s = .next (commandEffect Config.device h.instr s) := by
    rw [step_of_command hr hf hw hp (decode_header _), exec_spec, if_pos hc]
  rw [words_length, runSteps_of_step hstep]
  by_cases hi : h.instr = .setall
  · have hnine : h.payload.length = 9 := by rw [hlen, hi]; rfl
    refine runSteps_payload _ (by simp [hr]) (by simp [hf]) ?_ ?_ (by simpa using hpayload)
    · rw [hi]; rfl
    · simp [hi, commandEffect, hnine]
  · have hnil : h.payload = [] := by
      rw [← List.length_eq_zero_iff, hlen]
      exact payloadLength_of_ne hi
    rw [hnil]; rfl

/-- The block with a whole payload loaded from the words `ws`, and the next word at `pc` (R131). -/
def State.loaded (s : State) (ws : Vector Word 9) (pc : Nat) : State :=
  { s with
    cells := unpackPayload ws
    defined := Vector.replicate 36 true
    pendActive := false
    pendCount := 0
    pendWords := ws
    pc := pc }

section Loaded

variable (s : State) (ws : Vector Word 9) (pc : Nat)

@[simp] theorem loaded_init : (s.loaded ws pc).init = s.init := by simp only [State.loaded]
@[simp] theorem loaded_faultCause : (s.loaded ws pc).faultCause = s.faultCause := by simp only [State.loaded]
@[simp] theorem loaded_pendActive : (s.loaded ws pc).pendActive = false := by simp only [State.loaded]
@[simp] theorem loaded_pc : (s.loaded ws pc).pc = pc := by simp only [State.loaded]
@[simp] theorem loaded_trace : (s.loaded ws pc).trace = s.trace := by simp only [State.loaded]
@[simp] theorem loaded_stream : (s.loaded ws pc).stream = s.stream := by simp only [State.loaded]
@[simp] theorem loaded_resetIn : (s.loaded ws pc).resetIn = s.resetIn := by simp only [State.loaded]

end Loaded

theorem loaded_ready {s : State} (hs : s.Ready) (ws : Vector Word 9) (pc : Nat) : (s.loaded ws pc).Ready := by
  obtain ⟨hr, hf, -⟩ := hs
  exact ⟨by simp [hr], by simp [hf], loaded_pendActive ..⟩

/-- A load leaves nothing of an earlier one. -/
theorem loaded_loaded (s : State) (ws ws' : Vector Word 9) (pc pc' : Nat) :
    (s.loaded ws pc).loaded ws' pc' = s.loaded ws' pc' := by
  simp only [State.loaded]

theorem loadPayload_eq_loaded (s : State) : s.loadPayload = s.loaded s.pendWords s.pc := by
  simp only [State.loadPayload, State.setGrid, State.loaded, unpackPayload, cellIx_rowOf_colOf]

/-- The first `k + 1` entries of a vector after a write at index `k`. -/
theorem take_succ_toList_set {α : Type} {n k : Nat} (v : Vector α n) (hk : k < n) (a : α) :
    (v.set k a hk).toList.take (k + 1) = v.toList.take k ++ [a] := by
  rw [Vector.toList_set, List.take_add_one, List.take_set_of_le le_rfl]
  simp [hk]

/-- The payload words that are still missing complete those already received, and the last one loads them all. -/
theorem foldl_takePayload (ws : List Word) {s : State} {v : Vector Word 9}
    (hv : v.toList = s.pendWords.toList.take s.pendCount.val ++ ws) :
    ws.foldl (fun u w => takePayload w u) s = s.loaded v (s.pc + ws.length) := by
  have hlen : s.pendCount.val + ws.length = 9 := by
    have hcongr := congrArg List.length hv
    simp at hcongr
    omega
  induction ws generalizing s with
  | nil => simp at hlen; omega
  | cons w ws ih =>
    rw [List.foldl_cons]
    rw [List.length_cons] at hlen
    have hset := take_succ_toList_set s.pendWords s.pendCount.isLt w
    by_cases hlast : s.pendCount.val = 8
    · obtain rfl : ws = [] := List.length_eq_zero_iff.mp (by omega)
      have hall : v = s.pendWords.set s.pendCount.val w := by
        rw [← Vector.toList_inj, hv, ← hset, List.take_of_length_le (by simp [hlast])]
      rw [takePayload_of_last w hlast, loadPayload_eq_loaded, hall]
      rfl
    · rw [takePayload_of_not_last w hlast, ih]
      · simp [State.loaded, State.advance, State.storePayload, Nat.add_assoc, Nat.add_comm]
      · simp [hset, hv]
      · simp; omega

/-- A whole SETALL on the port of an initialised block loads its nine payload words in ten steps. -/
theorem runSteps_setall {s : State} {ws : Vector Word 9} (hs : s.Ready) (hinit : s.init = true)
    (hws : (HostCommand.mk .setall ws.toList).words <+: s.stream.drop s.pc) :
    runSteps 10 s = .next (s.loaded ws (s.pc + 10)) := by
  have hc : firstCause .setall s = .none := firstCause_of_no_read rfl (fun _ _ => rfl) rfl hinit
  have hwhole : (HostCommand.mk .setall ws.toList).whole = true := by simp [HostCommand.whole, Instr.payloadLength]
  have hload := foldl_takePayload ws.toList (s := commandEffect Config.device .setall s) (v := ws)
    (by simp [commandEffect])
  have hrun := runSteps_words hs hwhole hc hws
  rw [hload] at hrun
  simpa [State.loaded, commandEffect, State.advance, Nat.add_assoc] using hrun

/-- A whole SETALL holds nine payload words. -/
theorem exists_payload_of_setall {h : HostCommand} (hi : h.instr = .setall) (hwhole : h.whole = true) :
    ∃ ws : Vector Word 9, h = ⟨.setall, ws.toList⟩ := by
  obtain ⟨i, payload⟩ := h
  obtain rfl : i = .setall := hi
  have hlen : payload.length = 9 := by simpa [HostCommand.whole, Instr.payloadLength] using hwhole
  exact ⟨⟨payload.toArray, by simp [hlen]⟩, rfl⟩

end Sys2Proof.Machine
end

section
/-! PROOFS. Which commands are idempotent (spec/20_memory.md R59, 90_conflicts.md C9): what they write is there already when
they are executed again. -/

namespace Sys2Proof.Machine

/-! Writes that find their value in place -/

@[simp] theorem emit_nil (s : State) : s.emit [] = s := by simp [State.emit]

theorem setCell_eq_self {s : State} {y x : Coord} {v : Byte} (hd : s.isDefined y x = true) (hv : s.cell y x = v) :
    s.setCell y x v = s := by
  have hcells : s.cells.set (cellIx y x).val v = s.cells := by rw [← hv]; exact Vector.set_getElem_self _
  have hdefined : s.defined.set (cellIx y x).val true = s.defined := by rw [← hd]; exact Vector.set_getElem_self _
  simp only [State.setCell, hcells, hdefined]

theorem setGrid_eq_self {s : State} {f : Coord → Coord → Byte} (hd : s.AllDefined) (hf : ∀ y x, s.cell y x = f y x) :
    s.setGrid f = s := by
  have hcells : (Vector.ofFn fun i => f (rowOf i) (colOf i)) = s.cells :=
    gridBytes_ext fun i => by simp [← hf, State.cell]
  have hdefined : Vector.replicate 36 true = s.defined :=
    Vector.ext fun i hi => by rw [Vector.getElem_replicate]; exact (hd ⟨i, hi⟩).symm
  simp only [State.setGrid, hcells, hdefined]

theorem setGrid_setGrid (s : State) (f g : Coord → Coord → Byte) : (s.setGrid f).setGrid g = s.setGrid g := by
  simp only [State.setGrid]

theorem advance_setGrid (s : State) (f : Coord → Coord → Byte) : s.advance.setGrid f = (s.setGrid f).advance := by
  simp only [State.setGrid, State.advance]

/-! The effects, executed again -/

/-- A cell command whose function is idempotent finds its own result in the cell. -/
theorem cellEffect_again (x y : Nibble) {f : Byte → Byte} (hf : ∀ v, f (f v) = f v) (s : State) :
    cellEffect x y f (cellEffect x y f s) = (cellEffect x y f s).advance := by
  have hdefined : (cellEffect x y f s).isDefined (namedCell x y).1 (namedCell x y).2 = true := by simp [cellEffect]
  have hcell : (cellEffect x y f s).cell (namedCell x y).1 (namedCell x y).2 =
      f ((cellEffect x y f s).cell (namedCell x y).1 (namedCell x y).2) := by simp [cellEffect, hf]
  rw [cellEffect.eq_def x y f (cellEffect x y f s), setCell_eq_self hdefined hcell]

theorem setGrid_advance_again (f : Coord → Coord → Byte) (s : State) :
    (s.setGrid f).advance.setGrid f = (s.setGrid f).advance :=
  setGrid_eq_self ((allDefined_iff _).mpr (by simp)) (by simp)

/-- The scan over the planes leaves a grid that it would not change. -/
theorem overlayAll_overlayAll (c : Config) (m : RenderMode) (mask : Byte) (g : GridBytes) :
    overlayAll c m mask (overlayAll c m mask g) = overlayAll c m mask g := by
  apply gridBytes_ext
  intro i
  cases m with
  | normal => simp only [overlayAll, scan_normal_getElem, BitVec.or_assoc, BitVec.or_self]
  | reverse => simp only [overlayAll, scan_reverse_getElem, BitVec.and_assoc, BitVec.and_self]

/-- META and METAR add nothing to a grid that holds their overlay. -/
theorem overlay_again (c : Config) (m : RenderMode) (mask : Byte) {s t : State}
    (ht : t = (s.setGrid fun y x => (overlayAll c m mask s.cells)[cellIx y x]).advance) :
    (t.setGrid fun y x => (overlayAll c m mask t.cells)[cellIx y x]) = t := by
  have hcells : t.cells = overlayAll c m mask s.cells := gridBytes_ext fun i => by simp [ht]
  rw [hcells, overlayAll_overlayAll, ht]
  exact setGrid_advance_again _ s

/-- A grid writer other than REV, executed again, finds what it writes in place. -/
theorem commandEffect_again_of_writesGrid (c : Config) {i : Instr} (s : State) (hw : writesGrid i = true)
    (hrev : i ≠ .rev) : commandEffect c i (commandEffect c i s) = (commandEffect c i s).advance := by
  cases i with
  | init | setall | getall | bright level | update => contradiction
  | rev => contradiction
  | setp x y pat => exact cellEffect_again x y (f := fun _ => pat) (fun _ => rfl) s
  | orp x y pat => exact cellEffect_again x y (fun v => by rw [BitVec.or_assoc, BitVec.or_self]) s
  | andp x y pat => exact cellEffect_again x y (fun v => by rw [BitVec.and_assoc, BitVec.and_self]) s
  | clr => exact congrArg State.advance (setGrid_advance_again _ s)
  | fill => exact congrArg State.advance (setGrid_advance_again _ s)
  | metaNumber d => exact congrArg State.advance (overlay_again c .normal (lutEntry c (digitIx d)) rfl)
  | metaReverse d => exact congrArg State.advance (overlay_again c .reverse (lutEntry c (digitIx d)) rfl)

theorem emittedRecords_of_writesGrid (c : Config) {i : Instr} (s : State) (hw : writesGrid i = true) :
    emittedRecords c i s = [] := by
  cases i <;> simp_all [writesGrid, emittedRecords]

/-- A one-word command other than REV and INIT, executed again: its records again, and nothing else but `pc`. -/
theorem commandEffect_again (c : Config) {i : Instr} (s : State) (hrev : i ≠ .rev) (hinit : i ≠ .init)
    (hsetall : i ≠ .setall) :
    commandEffect c i (commandEffect c i s) = ((commandEffect c i s).emit (emittedRecords c i s)).advance := by
  cases hw : writesGrid i with
  | true => rw [emittedRecords_of_writesGrid c s hw, emit_nil, commandEffect_again_of_writesGrid c s hw hrev]
  | false =>
    cases i with
    | init | setall => contradiction
    | getall => simp [commandEffect, emittedRecords]
    | update => simp [commandEffect, emittedRecords]
    | bright level =>
      cases h : levelLegal level with
      | true => simp only [commandEffect, emittedRecords, h, if_true]; rfl
      | false => simp [commandEffect, emittedRecords, h]
    | _ => contradiction

/-! The checks, made again -/

/-- A command passes its checks when each of the causes of R238 is absent. -/
theorem firstCause_eq_none {i : Instr} {s : State} :
    firstCause i s = .none ↔ (i = .init → s.init = false) ∧ (isMutator i = true → s.init = true) ∧
      coordBad i = false ∧ ∀ y x, readsCell i y x = true → s.isDefined y x = true := by
  unfold firstCause
  split_ifs <;> simp_all

theorem firstCause_init (s : State) :
    firstCause .init s = if s.init then .alreadyInitialized else .none := by
  cases h : s.init with
  | true => simp [firstCause, h]
  | false => simp [firstCause_eq_none, h, isMutator, coordBad, readsCell, readsGrid]

/-- The checks that a command other than INIT has passed, it passes again after its effect. -/
theorem firstCause_again (c : Config) {i : Instr} {s : State} (hinit : i ≠ .init) (h : firstCause i s = .none) :
    firstCause i (commandEffect c i s) = .none := by
  obtain ⟨-, hmutator, hcoord, hreads⟩ := firstCause_eq_none.mp h
  exact firstCause_eq_none.mpr ⟨fun hi => absurd hi hinit, fun hm => commandEffect_init_of_init (hmutator hm), hcoord,
    fun y x hr => commandEffect_isDefined_of_isDefined (hreads y x hr)⟩

/-! The four clauses of idempotence -/

/-- A command of one word that has not faulted changes nothing but the trace and `pc` when it is executed again. -/
theorem exec_again {i : Instr} {s t : State} (hrev : i ≠ .rev) (hinit : i ≠ .init) (hsetall : i ≠ .setall)
    (h : exec i s = .next t) (hf : t.faultCause = .none) :
    ∃ rs : List Record, t.trace = s.trace ++ rs ∧
      exec i t = .next { t with trace := t.trace ++ rs, pc := t.pc + 1 } := by
  rcases exec_cases h with ⟨hc, rfl⟩ | ⟨hc, rfl⟩
  · exact absurd hf hc
  · refine ⟨emittedRecords Config.device i s, commandEffect_trace .., ?_⟩
    rw [exec_spec, if_pos (firstCause_again _ hinit hc), commandEffect_again _ s hrev hinit hsetall]
    rfl

/-- The words of a SETALL that stand twice on the port: the second load writes what the first one left. -/
theorem runSteps_setall_twice {s : State} {ws : Vector Word 9} (hs : s.Ready) (hinit : s.init = true)
    (hws : hostWords [⟨.setall, ws.toList⟩, ⟨.setall, ws.toList⟩] <+: s.stream.drop s.pc) :
    ∃ t, runSteps 10 s = .next t ∧ t.Ready ∧ t.trace = s.trace ∧ runSteps 20 s = .next { t with pc := t.pc + 10 } := by
  obtain ⟨rest, hrest⟩ := hws
  have hfirst : runSteps 10 s = .next (s.loaded ws (s.pc + 10)) :=
    runSteps_setall hs hinit ⟨_, by simpa [List.append_assoc] using hrest⟩
  have hwords : (HostCommand.mk .setall ws.toList).words <+: s.stream.drop (s.pc + 10) :=
    ⟨rest, by simpa [HostCommand.words] using congrArg (List.drop 10) hrest⟩
  have hsecond := runSteps_setall (s := s.loaded ws (s.pc + 10)) (loaded_ready hs ws _) (by simp [hinit])
    (by simpa using hwords)
  refine ⟨_, hfirst, loaded_ready hs ws _, loaded_trace .., ?_⟩
  rw [runSteps_add 10 hfirst, hsecond, loaded_loaded]
  simp only [State.loaded]

/-- REV complements the complement of every cell. -/
theorem rev_again (c : Config) {s : State} (hd : s.AllDefined) :
    commandEffect c .rev (commandEffect c .rev s) = { s with pc := s.pc + 2 } := by
  simp only [commandEffect, advance_setGrid, setGrid_setGrid, advance_cell, setGrid_cell, BitVec.not_not]
  rw [setGrid_eq_self hd fun _ _ => rfl]
  rfl

theorem exec_rev_twice {s : State} (hinit : s.init = true) (hd : s.AllDefined) :
    ∃ t, exec .rev s = .next t ∧ exec .rev t = .next { s with pc := s.pc + 2 } := by
  have hc : firstCause .rev s = .none := by rw [firstCause_of_readsGrid rfl fun _ => hinit, if_pos hd]
  refine ⟨commandEffect Config.device .rev s, ?_, ?_⟩
  · rw [exec_spec, if_pos hc]
  · rw [exec_spec, if_pos (firstCause_again _ (by decide) hc), rev_again _ hd]

theorem exec_init_twice {s : State} (hinit : s.init = false) :
    ∃ t, exec .init s = .next t ∧ exec .init t = .next { t with faultCause := .alreadyInitialized } := by
  refine ⟨commandEffect Config.device .init s, ?_, ?_⟩
  · simp [exec_spec, firstCause_init, hinit]
  · simp [exec_spec, firstCause_init, commandEffect, State.raise]

/-- Settles O32, clause by clause: what a command wrote is in place when it is executed again, REV undoes itself, and INIT
is refused. -/
theorem commandsAreIdempotentButRevAndInit : Obligations.CommandsAreIdempotentButRevAndInit := by
  unfold Obligations.CommandsAreIdempotentButRevAndInit
  refine ⟨fun i s t => exec_again, fun s h hi hwhole hs hinit hws => ?_, fun s => exec_rev_twice,
    fun s => exec_init_twice⟩
  obtain ⟨ws, rfl⟩ := exists_payload_of_setall hi hwhole
  exact runSteps_setall_twice hs hinit hws

end Sys2Proof.Machine
end

section
/-! PROOFS. The four header formats (spec/30_encoding.md R72). A header word is made of its six fields, so that the match of
a row of R75 says what OP and the must-be-zero fields hold, and the decoder is the inverse of the encoder. -/

namespace Sys2Proof

/-- The Z field, bits [15:8], which no command uses (R71). -/
def fieldZ (w : Word) : Byte := w.extractLsb' 8 8

@[simp] theorem fieldZ_packHeader (op a y x : Nibble) (z p : Byte) : fieldZ (packHeader op a y x z p) = z := by
  apply BitVec.eq_of_getLsbD_eq; intro i hi
  simp only [fieldZ, BitVec.getLsbD_extractLsb', packHeader_getLsbD, hi]
  interval_cases i <;> simp

/-- A header word is made of its six fields (R71). -/
theorem packHeader_fields (w : Word) :
    packHeader (fieldOP w) (fieldA w) (fieldY w) (fieldX w) (fieldZ w) (fieldP w) = w := by
  rw [packHeader, fieldOP, fieldA, fieldY, fieldX, fieldZ, fieldP,
    BitVec.extractLsb'_append_extractLsb'_eq_extractLsb' (show 28 = 24 + 4 from rfl),
    BitVec.extractLsb'_append_extractLsb'_eq_extractLsb' (show 24 = 20 + 4 from rfl),
    BitVec.extractLsb'_append_extractLsb'_eq_extractLsb' (show 20 = 16 + 4 from rfl),
    BitVec.extractLsb'_append_extractLsb'_eq_extractLsb' (show 16 = 8 + 8 from rfl),
    BitVec.extractLsb'_append_extractLsb'_eq_extractLsb' (show 8 = 0 + 8 from rfl)]
  exact BitVec.extractLsb'_eq_self

theorem packHeader_inj {op a y x op' a' y' x' : Nibble} {z p z' p' : Byte} :
    packHeader op a y x z p = packHeader op' a' y' x' z' p' ↔
      op = op' ∧ a = a' ∧ y = y' ∧ x = x' ∧ z = z' ∧ p = p' := by
  constructor
  · intro h
    exact ⟨by simpa using congrArg fieldOP h, by simpa using congrArg fieldA h, by simpa using congrArg fieldY h,
      by simpa using congrArg fieldX h, by simpa using congrArg fieldZ h, by simpa using congrArg fieldP h⟩
  · rintro ⟨rfl, rfl, rfl, rfl, rfl, rfl⟩; rfl

theorem packHeader_and (op a y x op' a' y' x' : Nibble) (z p z' p' : Byte) :
    packHeader op a y x z p &&& packHeader op' a' y' x' z' p' =
      packHeader (op &&& op') (a &&& a') (y &&& y') (x &&& x') (z &&& z') (p &&& p') := by
  apply BitVec.eq_of_getLsbD_eq; intro i _
  simp only [BitVec.getLsbD_and, packHeader_getLsbD]
  split_ifs <;> rfl

/-- The must-be-zero fields of an opcode's format hold 0 (R72). -/
def Opcode.ZeroFields (o : Opcode) (w : Word) : Prop :=
  match o with
  | .init | .clr | .fill | .rev | .setall | .getall | .update =>
    fieldA w = 0#4 ∧ fieldY w = 0#4 ∧ fieldX w = 0#4 ∧ fieldZ w = 0#8 ∧ fieldP w = 0#8
  | .setp | .orp | .andp => fieldA w = 0#4 ∧ fieldZ w = 0#8
  | .metaNumber | .metaReverse => fieldY w = 0#4 ∧ fieldX w = 0#4 ∧ fieldZ w = 0#8 ∧ fieldP w = 0#8
  | .bright => fieldA w = 0#4 ∧ fieldY w = 0#4 ∧ fieldX w = 0#4 ∧ fieldZ w = 0#8

theorem fixedBits_eq_packHeader (o : Opcode) : o.fixedBits = packHeader o.value 0#4 0#4 0#4 0#8 0#8 := by
  cases o <;> rfl

/-- A row match, field by field of the row's mask. -/
theorem row_match_iff_of_mask {o : Opcode} {op a y x : Nibble} {z p : Byte} (w : Word)
    (hmask : o.mask = packHeader op a y x z p) :
    w &&& o.mask = o.fixedBits ↔
      fieldOP w &&& op = o.value ∧ fieldA w &&& a = 0#4 ∧ fieldY w &&& y = 0#4 ∧ fieldX w &&& x = 0#4 ∧
        fieldZ w &&& z = 0#8 ∧ fieldP w &&& p = 0#8 := by
  rw [← packHeader_inj, ← packHeader_and, packHeader_fields, hmask, fixedBits_eq_packHeader]

/-- A word matches a row exactly when it has the row's OP value and its must-be-zero fields hold 0 (R72, R75). -/
theorem row_match_iff {w : Word} {o : Opcode} :
    w &&& o.mask = o.fixedBits ↔ fieldOP w = o.value ∧ o.ZeroFields w := by
  have hnibble : ∀ v : Nibble, v &&& 0xF#4 = v := fun _ => BitVec.and_allOnes
  have hbyte : ∀ v : Byte, v &&& 0xFF#8 = v := fun _ => BitVec.and_allOnes
  cases o with
  | init | clr | fill | rev | setall | getall | update =>
    rw [row_match_iff_of_mask (op := 0xF#4) (a := 0xF#4) (y := 0xF#4) (x := 0xF#4) (z := 0xFF#8) (p := 0xFF#8) w rfl]
    simp [Opcode.ZeroFields, hnibble, hbyte]
  | setp | orp | andp =>
    rw [row_match_iff_of_mask (op := 0xF#4) (a := 0xF#4) (y := 0x0#4) (x := 0x0#4) (z := 0xFF#8) (p := 0x00#8) w rfl]
    simp [Opcode.ZeroFields, hnibble, hbyte]
  | metaNumber | metaReverse =>
    rw [row_match_iff_of_mask (op := 0xF#4) (a := 0x0#4) (y := 0xF#4) (x := 0xF#4) (z := 0xFF#8) (p := 0xFF#8) w rfl]
    simp [Opcode.ZeroFields, hnibble, hbyte]
  | bright =>
    rw [row_match_iff_of_mask (op := 0xF#4) (a := 0xF#4) (y := 0xF#4) (x := 0xF#4) (z := 0xFF#8) (p := 0x00#8) w rfl]
    simp [Opcode.ZeroFields, hnibble, hbyte]

theorem opcode_value_inj {o o' : Opcode} (h : o.value = o'.value) : o = o' :=
  Option.some.inj (by rw [← ofValue_value, h, ofValue_value])

/-- The command that a word of a row stands for has that word as its header (R72, R74). -/
theorem header_instr {w : Word} {o : Opcode} (h : w &&& o.mask = o.fixedBits) : header (o.instr w) = w := by
  obtain ⟨hop, hzero⟩ := row_match_iff.mp h
  have hw := packHeader_fields w
  rw [hop] at hw
  cases o with
  | init | clr | fill | rev | setall | getall | update =>
    obtain ⟨ha, hy, hx, hz, hp⟩ := hzero
    rwa [ha, hy, hx, hz, hp] at hw
  | setp | orp | andp =>
    obtain ⟨ha, hz⟩ := hzero
    rwa [ha, hz] at hw
  | metaNumber | metaReverse =>
    obtain ⟨hy, hx, hz, hp⟩ := hzero
    rwa [hy, hx, hz, hp] at hw
  | bright =>
    obtain ⟨ha, hy, hx, hz⟩ := hzero
    rwa [ha, hy, hx, hz] at hw

/-- A word decodes to a command of an opcode exactly when it matches the opcode's row (R75, R76). -/
theorem decode_opcode_iff {w : Word} {o : Opcode} :
    (∃ i, decode w = .ok i ∧ i.opcode = o) ↔ w &&& o.mask = o.fixedBits := by
  constructor
  · rintro ⟨i, hi, rfl⟩
    obtain ⟨o, -, hmatch, rfl⟩ := decode_eq_ok.mp hi
    rwa [opcode_instr]
  · intro hmatch
    exact ⟨o.instr w, decode_eq_ok.mpr ⟨o, (row_match_iff.mp hmatch).1, hmatch, rfl⟩, opcode_instr o w⟩

/-- Settles O1: the header is the only word of a command, and it decodes to the command. -/
theorem decodeEncodeRoundTrip : Obligations.DecodeEncodeRoundTrip := by
  unfold Obligations.DecodeEncodeRoundTrip
  intro i
  simp [encode]

/-- Settles O2: a word that decodes matches a row, and then it is the header of the row's command. -/
theorem eachCommandHasOneEncoding : Obligations.EachCommandHasOneEncoding := by
  unfold Obligations.EachCommandHasOneEncoding
  intro w i hi
  obtain ⟨o, -, hmatch, rfl⟩ := decode_eq_ok.mp hi
  rw [encode, header_instr hmatch]

/-- Settles O3: the rows are disjoint since a match fixes the OP field, and no two rows share an OP value. -/
theorem headerDecodesIffItsRowMatches : Obligations.HeaderDecodesIffItsRowMatches := by
  unfold Obligations.HeaderDecodesIffItsRowMatches
  refine ⟨fun w o => decode_opcode_iff, fun w o o' hmatch hmatch' => opcode_value_inj ?_⟩
  rw [← (row_match_iff.mp hmatch).1, (row_match_iff.mp hmatch').1]

end Sys2Proof
end

section
/-! PROOFS. The illegal encodings (spec/30_encoding.md R77) are the words that match no row, and they are the only cause of
ILLEGAL_COMMAND at a block that takes a header (spec/60_exceptions.md R231). -/

namespace Sys2Proof

/-- A field is 0 exactly when its upper and its lower part are. -/
theorem extractLsb'_add_eq_zero_iff (w : Word) (start low high : Nat) :
    w.extractLsb' start (high + low) = 0#(high + low) ↔
      w.extractLsb' (start + low) high = 0#high ∧ w.extractLsb' start low = 0#low := by
  rw [← BitVec.extractLsb'_append_extractLsb'_eq_extractLsb' (start₁ := start) (len₁ := low) rfl,
    ← BitVec.zero_append_zero]
  constructor
  · intro h
    have hhigh := congrArg (BitVec.extractLsb' low high) h
    have hlow := congrArg (BitVec.extractLsb' 0 low) h
    simp only [BitVec.extractLsb'_append_eq_left, BitVec.extractLsb'_append_eq_right] at hhigh hlow
    exact ⟨hhigh, hlow⟩
  · rintro ⟨hhigh, hlow⟩
    rw [hhigh, hlow]

/-- The must-be-zero fields of each format as one or two runs of bits (R72). -/
def Opcode.ZeroBits (o : Opcode) (w : Word) : Prop :=
  match o with
  | .init | .clr | .fill | .rev | .setall | .getall | .update => w.extractLsb' 0 28 = 0#28
  | .setp | .orp | .andp => w.extractLsb' 24 4 = 0#4 ∧ w.extractLsb' 8 8 = 0#8
  | .metaNumber | .metaReverse => w.extractLsb' 0 24 = 0#24
  | .bright => w.extractLsb' 8 20 = 0#20

theorem zeroFields_iff_zeroBits {o : Opcode} {w : Word} : o.ZeroFields w ↔ o.ZeroBits w := by
  have hlow16 := extractLsb'_add_eq_zero_iff w 0 8 8
  have hlow20 := extractLsb'_add_eq_zero_iff w 0 16 4
  have hlow24 := extractLsb'_add_eq_zero_iff w 0 20 4
  have hlow28 := extractLsb'_add_eq_zero_iff w 0 24 4
  have hmid12 := extractLsb'_add_eq_zero_iff w 8 8 4
  have hmid16 := extractLsb'_add_eq_zero_iff w 8 12 4
  have hmid20 := extractLsb'_add_eq_zero_iff w 8 16 4
  cases o with
  | init | clr | fill | rev | setall | getall | update =>
    exact (hlow28.trans <| and_congr_right' <| hlow24.trans <| and_congr_right' <| hlow20.trans <|
      and_congr_right' hlow16).symm
  | setp | orp | andp => exact Iff.rfl
  | metaNumber | metaReverse =>
    exact (hlow24.trans <| and_congr_right' <| hlow20.trans <| and_congr_right' hlow16).symm
  | bright => exact (hmid20.trans <| and_congr_right' <| hmid16.trans <| and_congr_right' hmid12).symm

/-- The illegal encodings of R77, by opcode and by must-be-zero field. -/
def IllegalEncoding (w : Word) : Prop :=
  w.extractLsb' 28 4 ∈ [0x0#4, 0xE#4, 0xF#4] ∨
  (w.extractLsb' 28 4 ∈ [0x1#4, 0x5#4, 0x6#4, 0x7#4, 0x8#4, 0x9#4, 0xD#4] ∧ w.extractLsb' 0 28 ≠ 0#28) ∨
  (w.extractLsb' 28 4 ∈ [0x2#4, 0x3#4, 0x4#4] ∧ (w.extractLsb' 24 4 ≠ 0#4 ∨ w.extractLsb' 8 8 ≠ 0#8)) ∨
  (w.extractLsb' 28 4 ∈ [0xA#4, 0xB#4] ∧ w.extractLsb' 0 24 ≠ 0#24) ∨
  (w.extractLsb' 28 4 = 0xC#4 ∧ w.extractLsb' 8 20 ≠ 0#20)

theorem illegalEncoding_of_reserved {w : Word} (h : Opcode.ofValue (fieldOP w) = none) : IllegalEncoding w := by
  have hreserved : ∀ op, Opcode.ofValue op = none → op ∈ [0x0#4, 0xE#4, 0xF#4] := by decide
  exact .inl (hreserved _ h)

/-- Of a row's opcode, the illegal words are those with a 1 in a must-be-zero field. -/
theorem illegalEncoding_iff_of_opcode {w : Word} {o : Opcode} (h : fieldOP w = o.value) :
    IllegalEncoding w ↔ ¬ o.ZeroBits w := by
  have hop : w.extractLsb' 28 4 = o.value := h
  rw [IllegalEncoding, hop]
  cases o <;> simp [Opcode.value, Opcode.ZeroBits, imp_iff_not_or]

/-- The illegal encodings are the words that decode to no command (R76, R77). -/
theorem illegalEncoding_iff {w : Word} : IllegalEncoding w ↔ ∀ i, decode w ≠ .ok i := by
  have hdecode : (∃ i, decode w = .ok i) ↔ ∃ o : Opcode, fieldOP w = o.value ∧ o.ZeroBits w := by
    simp only [decode_eq_ok, row_match_iff, zeroFields_iff_zeroBits]
    exact ⟨fun ⟨i, o, hop, ⟨_, hzero⟩, _⟩ => ⟨o, hop, hzero⟩, fun ⟨o, hop, hzero⟩ => ⟨_, o, hop, ⟨hop, hzero⟩, rfl⟩⟩
  rw [← not_exists, hdecode]
  cases hop : Opcode.ofValue (fieldOP w) with
  | none =>
    refine iff_of_true (illegalEncoding_of_reserved hop) ?_
    rintro ⟨o, ho, -⟩
    simp [ho] at hop
  | some o =>
    have ho := ofValue_eq_some.mp hop
    rw [illegalEncoding_iff_of_opcode ho, not_iff_not]
    constructor
    · exact fun hzero => ⟨o, ho, hzero⟩
    · rintro ⟨o', ho', hzero⟩
      rwa [opcode_value_inj (ho.symm.trans ho')]

namespace Machine

theorem firstCause_ne_illegalCommand (i : Instr) (s : State) : firstCause i s ≠ .illegalCommand := by
  unfold firstCause
  split_ifs <;> decide

/-- No command raises ILLEGAL_COMMAND. -/
theorem exec_ne_raise_illegalCommand {i : Instr} {s : State} (hf : s.faultCause = .none) :
    exec i s ≠ .next (s.raise .illegalCommand) := by
  intro h
  rcases exec_cases h with ⟨-, ht⟩ | ⟨-, ht⟩
  · exact firstCause_ne_illegalCommand i s (congrArg State.faultCause ht).symm
  · have hcause := congrArg State.faultCause ht
    simp [hf] at hcause

/-- A header raises ILLEGAL_COMMAND exactly when it decodes to no command (R76, R231). -/
theorem step_eq_raise_illegalCommand_iff {s : State} {w : Word} (hs : s.Ready) (hw : s.nextWord = some w) :
    step s = .next (s.raise .illegalCommand) ↔ ∀ i, decode w ≠ .ok i := by
  obtain ⟨hr, hf, hp⟩ := hs
  cases hd : decode w with
  | error e => simp [step_of_illegal hr hf hw hp hd]
  | ok i => simp [step_of_command hr hf hw hp hd, exec_ne_raise_illegalCommand hf]

/-- Settles O4: both sides say that the word decodes to no command. -/
theorem illegalHeadersRaiseIllegalCommand : Obligations.IllegalHeadersRaiseIllegalCommand := by
  unfold Obligations.IllegalHeadersRaiseIllegalCommand
  intro s w hs hw
  exact illegalEncoding_iff.trans (step_eq_raise_illegalCommand_iff hs hw).symm

end Machine

end Sys2Proof
end

section
/-! PROOFS. The packing of 36 bytes into nine payload words (spec/20_memory.md R55, 30_encoding.md R73): byte `4j + m` is
quarter `m` of word `j`. -/

namespace Sys2Proof.Machine

/-- The serial index of byte `m` of payload word `j` (R73). -/
def payloadIx (j : Fin 9) (m : Fin 4) : Fin 36 := ⟨4 * j.val + m.val, by omega⟩

theorem exists_payloadIx (i : Fin 36) : ∃ j m, i = payloadIx j m :=
  ⟨⟨i.val / 4, by omega⟩, ⟨i.val % 4, by omega⟩, Fin.ext (Nat.div_add_mod i.val 4).symm⟩

theorem payloadByte_payloadIx (ws : Vector Word 9) (j : Fin 9) (m : Fin 4) :
    payloadByte ws (payloadIx j m) = ws[j].extractLsb' (24 - 8 * m.val) 8 := by
  have hword : (4 * j.val + m.val) / 4 = j.val := by omega
  have hquarter : (4 * j.val + m.val) % 4 = m.val := by omega
  simp only [payloadByte, payloadIx, hword, hquarter, Fin.getElem_fin]

/-- The quarters of a word of four bytes are the bytes. -/
theorem wordOfBytes_quarter (b : Fin 4 → Byte) (m : Fin 4) :
    (wordOfBytes (b 0) (b 1) (b 2) (b 3)).extractLsb' (24 - 8 * m.val) 8 = b m := by
  have drop_low {n : Nat} (hi : BitVec n) (lo : Byte) (start : Nat) :
      (hi ++ lo).extractLsb' (start + 8) 8 = hi.extractLsb' start 8 :=
    BitVec.extractLsb'_append_eq_of_le (Nat.le_add_left 8 start)
  match m with
  | 0 => exact (drop_low _ (b 3) 16).trans ((drop_low _ (b 2) 8).trans BitVec.extractLsb'_append_eq_left)
  | 1 => exact (drop_low _ (b 3) 8).trans ((drop_low _ (b 2) 0).trans BitVec.extractLsb'_append_eq_right)
  | 2 => exact (drop_low _ (b 3) 0).trans BitVec.extractLsb'_append_eq_right
  | 3 => exact BitVec.extractLsb'_append_eq_right

theorem packWord_eq (b : GridBytes) (j : Fin 9) :
    packWord b j = wordOfBytes b[payloadIx j 0] b[payloadIx j 1] b[payloadIx j 2] b[payloadIx j 3] := rfl

theorem unpackPayload_packPayload (b : GridBytes) : unpackPayload (packPayload b) = b := by
  apply gridBytes_ext
  intro i
  obtain ⟨j, m, rfl⟩ := exists_payloadIx i
  rw [unpackPayload_getElem, payloadByte_payloadIx]
  simp only [packPayload, Fin.getElem_fin, Vector.getElem_ofFn, Fin.eta]
  exact wordOfBytes_quarter (fun m => b[payloadIx j m]) m

theorem packPayload_unpackPayload (ws : Vector Word 9) : packPayload (unpackPayload ws) = ws := by
  apply Vector.ext
  intro j hj
  simp only [packPayload, Vector.getElem_ofFn, packWord_eq, unpackPayload_getElem, payloadByte_payloadIx]
  exact wordOfBytes_quarters ws[j]

/-- Settles O6, word by word: the bytes of a word are its quarters. -/
theorem payloadPackingIsExact : Obligations.PayloadPackingIsExact := by
  unfold Obligations.PayloadPackingIsExact
  refine ⟨unpackPayload_packPayload, packPayload_unpackPayload, fun ws j m => ?_⟩
  rw [← payloadByte_payloadIx, ← unpackPayload_getElem]
  rfl

end Sys2Proof.Machine
end

section
/-! PROOFS. The assembler (spec/30_encoding.md R80, R81): the range checks, the words of one command, and the expansion of
the pseudo-instructions. -/

namespace Sys2Proof

theorem cellOperandsError_eq_none {x y pat : Nat} :
    cellOperandsError x y pat = none ↔ x ≤ 15 ∧ y ≤ 15 ∧ pat ≤ 255 := by
  simp [cellOperandsError, ite_some_eq_none, and_assoc]

theorem digitError_eq_none {digit : Nat} : digitError digit = none ↔ digit ≤ 15 := by
  simp [digitError]

theorem levelError_eq_none {level : Nat} : levelError level = none ↔ level ≤ 255 := by
  simp [levelError]

theorem payloadError_eq_none {bytes : List Nat} :
    payloadError bytes = none ↔ bytes.length = 36 ∧ ∀ v ∈ bytes, v ≤ 255 := by
  rw [payloadError, ite_some_eq_none, not_not, ← bytesInRange_iff]
  simp

namespace Machine

/-- The words of a list of commands whose operands have been checked (R80). -/
def checkedWords (check : Option AsmError) (hs : List HostCommand) : Except AsmError (List Word) :=
  match check with
  | some e => .error e
  | none => .ok (hostWords hs)

theorem assembleCommand_eq_checkedWords (a : AsmCommand) :
    assembleCommand a = checkedWords a.firstError (expandCommand a) := rfl

theorem assembleCommand_of_error {a : AsmCommand} {e : AsmError} (h : a.firstError = some e) :
    assembleCommand a = .error e := by
  rw [assembleCommand_eq_checkedWords, h]; rfl

theorem assembleCommand_of_no_error {a : AsmCommand} (h : a.firstError = none) :
    assembleCommand a = .ok (hostWords (expandCommand a)) := by
  rw [assembleCommand_eq_checkedWords, h]; rfl

/-- Commands whose operands have a common check are refused together, with its error. -/
theorem exists_error {check : Option AsmError} (h : check ≠ none) :
    ∃ e, ∀ a : AsmCommand, a.firstError = check → assembleCommand a = .error e := by
  obtain ⟨e, rfl⟩ := Option.ne_none_iff_exists'.mp h
  exact ⟨e, fun a => assembleCommand_of_error⟩

/-- A line that stands for one command without payload assembles to the header of the command. -/
theorem assembleCommand_single {a : AsmCommand} {i : Instr} (h : a.firstError = none)
    (ha : expandCommand a = [⟨i, []⟩]) : assembleCommand a = .ok [header i] := by
  rw [assembleCommand_of_no_error h, ha]; rfl

/-- The words of a whole command are read back as that command (R78). -/
theorem decodeCommand_words {h : HostCommand} (hwhole : h.whole = true) (rest : List Word) :
    decodeCommand (h.words ++ rest) = .ok (h, rest) := by
  have hlen : h.payload.length = h.instr.payloadLength := by simpa [HostCommand.whole] using hwhole
  simp [HostCommand.words, decodeCommand, ← hlen]

theorem load_whole (b : GridBytes) : (HostCommand.load b).whole = true := by
  simp [HostCommand.whole, HostCommand.load, Instr.payloadLength]

/-- A SETALL with 36 bytes assembles to the words that load them (R73). -/
theorem assembleCommand_setall {bytes : List Nat} (h : payloadError bytes = none) :
    assembleCommand (.setall bytes) = .ok (HostCommand.load (payloadOperands bytes)).words := by
  rw [assembleCommand_of_no_error (a := .setall bytes) h]
  exact congrArg Except.ok (List.append_nil _)

theorem toNat_payloadOperands {bytes : List Nat} (h : ∀ v ∈ bytes, v ≤ 255) (i : Fin 36) :
    (payloadOperands bytes)[i].toNat = bytes.getD i.val 0 := by
  simpa [payloadOperands] using toNat_ofNat_getD (bytesInRange_iff.mpr h) i.val

/-- Settles O8, clause by clause: operands that pass their check give a header or a load, and any others the error of the
check. -/
theorem assembledCommandsDecode : Obligations.AssembledCommandsDecode := by
  unfold Obligations.AssembledCommandsDecode
  refine ⟨?operandless, ?cell, ?badCell, ?digit, ?badDigit, ?level, ?badLevel, ?payload, ?badPayload⟩
  case operandless =>
    intro a i h
    refine ⟨header i, ?_, decode_header i⟩
    simp only [List.mem_cons, Prod.mk.injEq, List.not_mem_nil, or_false] at h
    rcases h with ⟨rfl, rfl⟩ | ⟨rfl, rfl⟩ | ⟨rfl, rfl⟩ | ⟨rfl, rfl⟩ | ⟨rfl, rfl⟩ | ⟨rfl, rfl⟩ <;> rfl
  case cell =>
    intro x y pat h
    have hok := cellOperandsError_eq_none.mpr h
    exact ⟨_, _, _, assembleCommand_single hok rfl, decode_header _, assembleCommand_single hok rfl, decode_header _,
      assembleCommand_single hok rfl, decode_header _⟩
  case badCell =>
    intro x y pat h
    obtain ⟨e, he⟩ := exists_error (mt cellOperandsError_eq_none.mp h)
    exact ⟨e, he _ rfl, he _ rfl, he _ rfl⟩
  case digit =>
    intro d h
    have hok := digitError_eq_none.mpr h
    exact ⟨_, _, assembleCommand_single hok rfl, decode_header _, assembleCommand_single hok rfl, decode_header _⟩
  case badDigit =>
    intro d h
    obtain ⟨e, he⟩ := exists_error (mt digitError_eq_none.mp h.not_ge)
    exact ⟨e, he _ rfl, he _ rfl⟩
  case level =>
    intro l h
    exact ⟨_, assembleCommand_single (levelError_eq_none.mpr h) rfl, decode_header _⟩
  case badLevel =>
    intro l h
    obtain ⟨e, he⟩ := exists_error (mt levelError_eq_none.mp h.not_ge)
    exact ⟨e, he _ rfl⟩
  case payload =>
    intro bs hlen hrange
    have hdecode := decodeCommand_words (load_whole (payloadOperands bs)) []
    rw [List.append_nil] at hdecode
    exact ⟨_, _, assembleCommand_setall (payloadError_eq_none.mpr ⟨hlen, hrange⟩), hdecode,
      toNat_payloadOperands hrange⟩
  case badPayload =>
    intro bs h
    obtain ⟨e, he⟩ := exists_error (mt payloadError_eq_none.mp h)
    exact ⟨e, he _ rfl⟩

/-- Settles O5: each word is evaluated by the decoder, and the SETALL by the assembler. -/
theorem specEncodingExamples : Obligations.SpecEncodingExamples := by
  unfold Obligations.SpecEncodingExamples
  decide

theorem hostWords_append (hs hs' : List HostCommand) : hostWords (hs ++ hs') = hostWords hs ++ hostWords hs' :=
  List.flatMap_append

/-- Two lists of commands assembled one after the other: the first error of either, or the words of both. -/
theorem checkedWords_append (check check' : Option AsmError) (hs hs' : List HostCommand) :
    checkedWords (check.orElse fun _ => check') (hs ++ hs') =
      (do let a ← checkedWords check hs; let b ← checkedWords check' hs'; pure (a ++ b)) := by
  cases check with
  | some e => rfl
  | none =>
    cases check' with
    | some e => rfl
    | none => exact congrArg Except.ok (hostWords_append hs hs')

/-- A line whose checks and commands are those of two others assembles to the words of the two. -/
theorem assembleCommand_pair {a b c : AsmCommand}
    (hcheck : c.firstError = a.firstError.orElse fun _ => b.firstError)
    (hexpand : expandCommand c = expandCommand a ++ expandCommand b) :
    assembleCommand c = (do let u ← assembleCommand a; let v ← assembleCommand b; pure (u ++ v)) := by
  simp only [assembleCommand_eq_checkedWords, hcheck, hexpand, checkedWords_append]

/-- Settles O9: the checks of an expansion are those of its commands, in their order, and so are its words. -/
theorem pseudoInstructionsExpand : Obligations.PseudoInstructionsExpand := by
  unfold Obligations.PseudoInstructionsExpand
  refine ⟨fun x y => rfl, fun d => assembleCommand_pair rfl rfl, fun d => assembleCommand_pair rfl rfl, fun bs l => ?_⟩
  have hcheck : (AsmCommand.display bs l).firstError =
      ((payloadError bs).orElse fun _ => levelError l).orElse fun _ => none := by simp [AsmCommand.firstError]
  have hexpand : expandCommand (.display bs l) =
      (expandCommand (.setall bs) ++ expandCommand (.bright l)) ++ expandCommand .update := rfl
  simp only [assembleCommand_eq_checkedWords, hcheck, hexpand, checkedWords_append, bind_assoc, pure_bind]
  rfl

end Machine

end Sys2Proof
end

section
/-! PROOFS. A ready block takes a whole command as one (spec/30_encoding.md R70, R78; spec/60_exceptions.md R252). -/

namespace Sys2Proof.Machine

/-- A command that fails a check faults at its header, in one step. -/
theorem runSteps_of_firstCause {s : State} {h : HostCommand} (hs : s.Ready) (hc : firstCause h.instr s ≠ .none)
    (hws : h.words <+: s.stream.drop s.pc) : runSteps 1 s = .next (s.raise (firstCause h.instr s)) := by
  obtain ⟨hr, hf, hp⟩ := hs
  obtain ⟨hw, -⟩ := nextWord_of_words_at_pc hws
  refine runSteps_of_step ?_
  rw [step_of_command hr hf hw hp (decode_header _), exec_spec, if_neg hc]

/-- A whole command is one word, or a SETALL of ten (R70). -/
theorem words_length_of_whole {h : HostCommand} (hwhole : h.whole = true) :
    h.words.length = if h.instr = .setall then 10 else 1 := by
  have hlen : h.payload.length = h.instr.payloadLength := by simpa [HostCommand.whole] using hwhole
  rw [words_length, hlen]
  split_ifs with hi
  · rw [hi]; rfl
  · rw [payloadLength_of_ne hi]

/-- What a whole command that passes its checks leaves: the block ready again, all of the command's words taken. -/
theorem ready_after_words {s : State} {h : HostCommand} (hs : s.Ready) (hwhole : h.whole = true)
    (hc : firstCause h.instr s = .none) (hws : h.words <+: s.stream.drop s.pc) :
    ∃ t, runSteps h.words.length s = .next t ∧ t.Ready ∧ t.stream = s.stream ∧ t.pc = s.pc + h.words.length := by
  have hlen := words_length_of_whole hwhole
  by_cases hi : h.instr = .setall
  · obtain ⟨ws, rfl⟩ := exists_payload_of_setall hi hwhole
    obtain ⟨-, hmutator, -⟩ := firstCause_eq_none.mp hc
    rw [if_pos hi] at hlen
    rw [hlen]
    exact ⟨_, runSteps_setall hs (hmutator rfl) hws, loaded_ready hs .., loaded_stream .., loaded_pc ..⟩
  · rw [if_neg hi] at hlen
    have hnil : h.payload = [] := List.length_eq_zero_iff.mp (by simpa using hlen)
    have ⟨hr, hf, hp⟩ := hs
    obtain ⟨hpending, -⟩ := commandEffect_pending_of_ne (c := Config.device) (s := s) hi
    refine ⟨_, runSteps_words hs hwhole hc hws, ?_⟩
    rw [hnil, hlen]
    exact ⟨⟨by simp [hr], by simp [hf], hpending.trans hp⟩, by simp, by simp⟩

/-- Settles O54: the command faults at its header, or the block is ready again behind its words. -/
theorem readyBlockTakesAWholeCommand : Obligations.ReadyBlockTakesAWholeCommand := by
  unfold Obligations.ReadyBlockTakesAWholeCommand
  intro s h hs hwhole hws
  by_cases hc : firstCause h.instr s = .none
  · obtain ⟨t, hrun, ⟨hr, hf, hp⟩, hstream, hpc⟩ := ready_after_words hs hwhole hc hws
    have hlen := words_length_of_whole hwhole
    exact ⟨h.words.length, t, by simp, by split_ifs at hlen <;> omega, hrun, hp, hr, hstream, .inl ⟨hf, hpc⟩⟩
  · have ⟨hr, _, hp⟩ := hs
    exact ⟨1, _, le_rfl, by decide, runSteps_of_firstCause hs hc hws, hp, hr, rfl, .inr ⟨hc, rfl⟩⟩

end Sys2Proof.Machine
end

section
/-! PROOFS. The six grid primitives (spec/40_buffer_ops.md R100 to R106). Each raises the first cause of
60_exceptions.md R238 that applies, or has its effect, which writes one cell or all 36 and changes nothing else but
`pc`. -/

namespace Sys2Proof

/-- The encodings of a command with operands are the words of its row of R75. -/
theorem decode_instr_iff (w : Word) (o : Opcode) : w &&& o.mask = o.fixedBits ↔ decode w = .ok (o.instr w) :=
  ⟨fun h => decode_eq_ok.mpr ⟨o, (row_match_iff.mp h).1, h, rfl⟩,
    fun h => decode_opcode_iff.mp ⟨_, h, opcode_instr o w⟩⟩

/-- The one encoding of a command is its header. -/
theorem decode_eq_ok_iff_header {w : Word} {i : Instr} : decode w = .ok i ↔ w = header i := by
  constructor
  · intro h
    exact (List.singleton_inj.mp (eachCommandHasOneEncoding w i h)).symm
  · rintro rfl
    exact decode_header i

namespace Machine

/-! The outcome of a command, by its first cause -/

section Outcome

variable {i : Instr} {s : State}

theorem exec_of_no_cause (h : firstCause i s = .none) : exec i s = .next (commandEffect Config.device i s) := by
  rw [exec_spec, if_pos h]

theorem exec_of_cause {f : FaultCause} (hf : f ≠ .none) (h : firstCause i s = f) :
    exec i s = .next { s with faultCause := f } := by
  rw [exec_spec, h, if_neg hf]
  rfl

theorem exec_of_not_init (hm : isMutator i = true) (h : s.init = false) :
    exec i s = .next { s with faultCause := .notInitialized } :=
  exec_of_cause (by decide) (firstCause_of_not_init hm h)

theorem exec_of_out_of_range {x y : Nibble} (hb : coordBad i = (6 ≤ x.toNat || 6 ≤ y.toNat)) (hinit : s.init = true)
    (h : 6 ≤ x.toNat ∨ 6 ≤ y.toNat) : exec i s = .next { s with faultCause := .coordRange } :=
  exec_of_cause (by decide)
    (firstCause_of_coordBad (hb.trans (coordBad_iff.mpr (cellOf_eq_none.mpr h))) hinit)

end Outcome

/-! The commands that write one cell (R101 to R103) -/

theorem in_range_of_cellOf {x y : Nibble} {p : Coord × Coord} (hc : cellOf x y = some p) :
    (6 ≤ x.toNat || 6 ≤ y.toNat) = false := by
  rw [Bool.eq_false_iff, Ne, coordBad_iff, hc]
  exact Option.some_ne_none p

theorem cellEffect_cellWritten {x y : Nibble} {cy cx : Coord} (hc : cellOf x y = some (cy, cx)) (f : Byte → Byte)
    (s : State) : s.CellWritten (cellEffect x y f s) cy cx (f (s.cell cy cx)) := by
  have hnamed : namedCell x y = (cy, cx) := by simp [namedCell, hc]
  rw [cellEffect, hnamed]
  exact setCell_advance_cellWritten s cy cx _

/-- A command that reads one cell and writes `f` of its value back: R102 and R103 but for `f`. -/
theorem cellReader_outcome {i : Instr} {x y : Nibble} {cy cx : Coord} {f : Byte → Byte} {s : State}
    (hm : isMutator i = true) (hb : coordBad i = (6 ≤ x.toNat || 6 ≤ y.toNat))
    (hr : ∀ y' x' : Coord, readsCell i y' x' = (x.toNat == x'.val && y.toNat == y'.val))
    (heffect : commandEffect Config.device i s = cellEffect x y f s)
    (hinit : s.init = true) (hx : x.toNat = cx.val) (hy : y.toNat = cy.val) :
    (s.isDefined cy cx = true → ∃ t, exec i s = .next t ∧ s.CellWritten t cy cx (f (s.cell cy cx))) ∧
    (s.isDefined cy cx = false → exec i s = .next { s with faultCause := .undefinedCell }) := by
  have hc : cellOf x y = some (cy, cx) := cellOf_eq_some.mpr ⟨hx, hy⟩
  have hcause := firstCause_of_readsCell hm hb hr hc hinit
  constructor
  · intro hd
    exact ⟨_, (exec_of_no_cause (by simp [hcause, hd])).trans (congrArg _ heffect), cellEffect_cellWritten hc f s⟩
  · intro hd
    exact exec_of_cause (by decide) (by simp [hcause, hd])

/-- Settles O26: SETP reads no cell, so that nothing but the initialisation and the coordinates can stop it. -/
theorem setpOverwritesOneCell : Obligations.SetpOverwritesOneCell := by
  unfold Obligations.SetpOverwritesOneCell
  refine ⟨fun cy cx x y pat s hinit hx hy => ?_, fun x y pat s => exec_of_out_of_range rfl,
    fun x y pat s => exec_of_not_init rfl, fun w => decode_instr_iff w .setp⟩
  have hc : cellOf x y = some (cy, cx) := cellOf_eq_some.mpr ⟨hx, hy⟩
  have hcause : firstCause (.setp x y pat) s = .none :=
    firstCause_of_no_read rfl (fun _ _ => rfl) (in_range_of_cellOf hc) hinit
  exact ⟨_, exec_of_no_cause hcause, cellEffect_cellWritten hc (fun _ => pat) s⟩

/-- Settles O27: ORP is the cell reader that writes the OR with its pattern. -/
theorem orpSetsBitsOfOneCell : Obligations.OrpSetsBitsOfOneCell := by
  unfold Obligations.OrpSetsBitsOfOneCell
  exact ⟨fun cy cx x y pat s => cellReader_outcome (f := (· ||| pat)) rfl rfl (fun _ _ => rfl) rfl,
    fun x y pat s => exec_of_out_of_range rfl, fun x y pat s => exec_of_not_init rfl,
    fun w => decode_instr_iff w .orp⟩

/-- Settles O28: ANDP is the cell reader that writes the AND with the complement of its pattern. -/
theorem andpClearsBitsOfOneCell : Obligations.AndpClearsBitsOfOneCell := by
  unfold Obligations.AndpClearsBitsOfOneCell
  exact ⟨fun cy cx x y pat s => cellReader_outcome (f := (· &&& ~~~pat)) rfl rfl (fun _ _ => rfl) rfl,
    fun x y pat s => exec_of_out_of_range rfl, fun x y pat s => exec_of_not_init rfl,
    fun w => decode_instr_iff w .andp⟩

/-! The commands that write every cell (R104 to R106) -/

/-- Settles O29: CLR and FILL read no cell and name none, so that an initialised block always has their effect. -/
theorem clrAndFillWriteEveryCell : Obligations.ClrAndFillWriteEveryCell := by
  unfold Obligations.ClrAndFillWriteEveryCell
  refine ⟨fun s hinit => ⟨?_, ?_⟩, fun s h => ⟨exec_of_not_init rfl h, exec_of_not_init rfl h⟩,
    fun w => ⟨decode_eq_ok_iff_header, decode_eq_ok_iff_header⟩⟩
  · exact ⟨_, exec_of_no_cause (firstCause_of_no_read rfl (fun _ _ => rfl) rfl hinit),
      setGrid_advance_gridWritten s _⟩
  · exact ⟨_, exec_of_no_cause (firstCause_of_no_read rfl (fun _ _ => rfl) rfl hinit),
      setGrid_advance_gridWritten s _⟩

/-- Settles O30: REV reads the whole grid, so that one undefined cell is enough to stop it. -/
theorem revComplementsEveryCell : Obligations.RevComplementsEveryCell := by
  unfold Obligations.RevComplementsEveryCell
  have hcause : ∀ s : State, s.init = true → firstCause .rev s = if s.AllDefined then .none else .undefinedCell :=
    fun s hinit => firstCause_of_readsGrid rfl fun _ => hinit
  refine ⟨fun s hinit hd => ?_, fun s hinit hundef => ?_, fun s => exec_of_not_init rfl,
    fun w => decode_eq_ok_iff_header⟩
  · exact ⟨_, exec_of_no_cause ((hcause s hinit).trans (if_pos hd)), setGrid_advance_gridWritten s _⟩
  · exact exec_of_cause (by decide) ((hcause s hinit).trans (if_neg ((not_allDefined_iff s).mpr hundef)))

end Machine

end Sys2Proof
end

section
/-! PROOFS. The laws of the grid primitives (spec/40_buffer_ops.md R107). On an initialised block with a defined grid no
command of a law faults, so that a sequence has the effects of its commands one after another; two effects on one cell
compose to one. -/

namespace Sys2Proof.Machine

/-! Sequences without a fault -/

/-- An initialised block with a defined grid stops no command but INIT and those that name a cell out of the grid. -/
theorem firstCause_of_allDefined {i : Instr} {s : State} (hinit : s.init = true) (hd : s.AllDefined) (hi : i ≠ .init)
    (hb : coordBad i = false) : firstCause i s = .none :=
  firstCause_eq_none.mpr ⟨fun h => absurd h hi, fun _ => hinit, hb, fun y x _ => (allDefined_iff s).mp hd y x⟩

/-- The effects of commands, one after another. -/
def effects (is : List Instr) (s : State) : State := is.foldl (fun t i => commandEffect Config.device i t) s

@[simp] theorem effects_nil (s : State) : effects [] s = s := rfl
@[simp] theorem effects_cons (i : Instr) (is : List Instr) (s : State) :
    effects (i :: is) s = effects is (commandEffect Config.device i s) := rfl

/-- The condition of `firstCause_of_allDefined` is kept by every effect, so that it carries through a sequence. -/
theorem execAll_of_allDefined {is : List Instr} {s : State} (hinit : s.init = true) (hd : s.AllDefined)
    (his : ∀ i ∈ is, i ≠ .init ∧ coordBad i = false) : execAll exec is s = .next (effects is s) := by
  induction is generalizing s with
  | nil => rfl
  | cons i is ih =>
    obtain ⟨⟨hi, hb⟩, hrest⟩ := List.forall_mem_cons.mp his
    have hd' : (commandEffect Config.device i s).AllDefined := (allDefined_iff _).mpr fun y x =>
      commandEffect_isDefined_of_isDefined ((allDefined_iff s).mp hd y x)
    rw [execAll, exec_of_no_cause (firstCause_of_allDefined hinit hd hi hb)]
    exact ih (commandEffect_init_of_init hinit) hd' hrest

/-! Effects on one cell, composed -/

theorem setCell_advance_setCell (s : State) (y x : Coord) (v w : Byte) :
    (s.setCell y x v).advance.setCell y x w = (s.setCell y x w).advance := by
  simp [State.setCell, State.advance]

/-- Two effects on the same cell are the effect of the composed function, two words on. -/
theorem cellEffect_cellEffect (x y : Nibble) {f g h : Byte → Byte} (hgf : ∀ v, g (f v) = h v) (s : State) :
    cellEffect x y g (cellEffect x y f s) = (cellEffect x y h s).advance := by
  simp [cellEffect, setCell_advance_setCell, hgf]

theorem sameButPc_refl (s : State) : sameButPc (.next s) (.next s) := rfl

theorem sameButPc_advance (s : State) : sameButPc (.next s.advance) (.next s) := rfl

theorem andNot_or_self (v p : Byte) : v &&& ~~~p ||| p = v ||| p := by
  ext k hk
  simp only [BitVec.getElem_or, BitVec.getElem_and, BitVec.getElem_not]
  cases p[k] <;> simp

/-- GETALL sends cell `G[y][x]` as byte `6y + x` (20_memory.md R51). -/
theorem gridBytes_serial (s : State) (y x : Coord) :
    s.gridBytes[6 * y.val + x.val]'(by omega) = s.cell y x := by
  rw [gridBytes_eq_cells]
  rfl

/-! The laws -/

section CellLaws

variable {cy cx : Coord} {x y : Nibble} {s : State} (hinit : s.init = true) (hd : s.AllDefined)
  (hc : cellOf x y = some (cy, cx))

include hinit hd hc

theorem execAll_setp_getall (p : Byte) : ∃ t b, execAll exec [.setp x y p, .getall] s = .next t ∧
    t.trace = s.trace ++ [.resp b] ∧ b[6 * cy.val + cx.val] = p := by
  have hb := in_range_of_cellOf hc
  obtain ⟨hcell, -⟩ := cellEffect_cellWritten hc (fun _ => p) s
  exact ⟨_, _, execAll_of_allDefined hinit hd (by simpa [coordBad] using hb), by simp [commandEffect, cellEffect],
    (gridBytes_serial _ cy cx).trans hcell⟩

theorem exec_orp_of_allDefined (p : Byte) : exec (.orp x y p) s = .next (cellEffect x y (· ||| p) s) :=
  exec_of_no_cause (firstCause_of_allDefined hinit hd (by simp) (in_range_of_cellOf hc))

theorem exec_andp_of_allDefined (p : Byte) : exec (.andp x y p) s = .next (cellEffect x y (· &&& ~~~p) s) :=
  exec_of_no_cause (firstCause_of_allDefined hinit hd (by simp) (in_range_of_cellOf hc))

theorem execAll_orp_orp (p q : Byte) :
    execAll exec [.orp x y p, .orp x y q] s = .next (cellEffect x y (· ||| (p ||| q)) s).advance := by
  have hb := in_range_of_cellOf hc
  rw [execAll_of_allDefined hinit hd (by simpa [coordBad] using hb)]
  exact congrArg _ (cellEffect_cellEffect (f := (· ||| p)) (g := (· ||| q)) x y (fun v => BitVec.or_assoc v p q) s)

theorem execAll_andp_andp (p q : Byte) :
    execAll exec [.andp x y p, .andp x y q] s = .next (cellEffect x y (· &&& ~~~(p ||| q)) s).advance := by
  have hb := in_range_of_cellOf hc
  rw [execAll_of_allDefined hinit hd (by simpa [coordBad] using hb)]
  exact congrArg _ (cellEffect_cellEffect (f := (· &&& ~~~p)) (g := (· &&& ~~~q)) x y
    (fun v => by rw [BitVec.not_or, BitVec.and_assoc]) s)

/-- The bits that ANDP clears, ORP sets again: the cell is ORed with them (90_conflicts.md C3). -/
theorem execAll_andp_orp (p : Byte) :
    ∃ t, execAll exec [.andp x y p, .orp x y p] s = .next t ∧ t.cell cy cx = s.cell cy cx ||| p := by
  have hb := in_range_of_cellOf hc
  obtain ⟨hcell, -⟩ := cellEffect_cellWritten hc (· ||| p) s
  refine ⟨_, execAll_of_allDefined hinit hd (by simpa [coordBad] using hb), ?_⟩
  have heffects : effects [.andp x y p, .orp x y p] s = (cellEffect x y (· ||| p) s).advance :=
    cellEffect_cellEffect (f := (· &&& ~~~p)) (g := (· ||| p)) x y (fun v => andNot_or_self v p) s
  rw [heffects, advance_cell, hcell]

end CellLaws

section GridLaws

variable {s : State} (hinit : s.init = true) (hd : s.AllDefined)

include hinit hd

theorem execAll_clr_fill_rev :
    ∃ t, execAll exec [.clr, .fill, .rev] s = .next t ∧ ∀ y x, t.cell y x = 0x00#8 :=
  ⟨_, execAll_of_allDefined hinit hd (by simp [coordBad]), by simp [commandEffect]⟩

theorem execAll_clr_rev : ∃ t, execAll exec [.clr, .rev] s = .next t ∧ ∀ y x, t.cell y x = 0xFF#8 :=
  ⟨_, execAll_of_allDefined hinit hd (by simp [coordBad]), by simp [commandEffect]⟩

theorem execAll_rev_rev : execAll exec [.rev, .rev] s = .next { s with pc := s.pc + 2 } := by
  rw [execAll_of_allDefined hinit hd (by simp [coordBad])]
  exact congrArg _ (rev_again Config.device hd)

end GridLaws

/-- Settles O31: the laws of ORP and ANDP are those of OR on the patterns, since two commands act as one. -/
theorem gridPrimitiveLaws : Obligations.GridPrimitiveLaws := by
  unfold Obligations.GridPrimitiveLaws
  intro cy cx x y p q s hinit hd hx hy
  have hc : cellOf x y = some (cy, cx) := cellOf_eq_some.mpr ⟨hx, hy⟩
  have orp_orp := execAll_orp_orp hinit hd hc
  have andp_andp := execAll_andp_andp hinit hd hc
  have orp := exec_orp_of_allDefined hinit hd hc
  have andp := exec_andp_of_allDefined hinit hd hc
  refine ⟨execAll_setp_getall hinit hd hc p, ?_, ?_, ?_, ?_, ?_, ?_, execAll_andp_orp hinit hd hc p,
    execAll_clr_fill_rev hinit hd, execAll_clr_rev hinit hd, ?_⟩
  · rw [orp_orp, BitVec.or_self, orp]
    exact sameButPc_advance _
  · rw [andp_andp, BitVec.or_self, andp]
    exact sameButPc_advance _
  · rw [orp_orp p q, orp_orp q p, BitVec.or_comm q p]
    exact sameButPc_refl _
  · rw [orp_orp, orp]
    exact sameButPc_advance _
  · rw [andp_andp p q, andp_andp q p, BitVec.or_comm q p]
    exact sameButPc_refl _
  · rw [andp_andp, andp]
    exact sameButPc_advance _
  · rw [execAll_rev_rev hinit hd]
    rfl

end Sys2Proof.Machine
end

section
/-! PROOFS. SETALL and GETALL (spec/41_bulk_transfer.md R131 to R133). A payload word before the ninth leaves the grid, the
ninth loads it whole (`State.loaded`), and what is loaded from the packed bytes of a grid is that grid. -/

namespace Sys2Proof.Machine

/-- Serial byte `i` is the cell in row `i div 6`, column `i mod 6` (20_memory.md R51). -/
theorem eq_cellIx {i : Fin 36} {y x : Coord} (hy : i.val / 6 = y.val) (hx : i.val % 6 = x.val) : i = cellIx y x := by
  apply Fin.ext
  simp only [cellIx]
  omega

/-! The loaded grid -/

section Loaded

variable (s : State) (ws : Vector Word 9) (pc : Nat)

@[simp] theorem loaded_cell (y x : Coord) : (s.loaded ws pc).cell y x = payloadByte ws (cellIx y x) :=
  unpackPayload_getElem ws (cellIx y x)

theorem loaded_allDefined : (s.loaded ws pc).AllDefined := fun i => by simp [State.loaded]

theorem loaded_isDefined (y x : Coord) : (s.loaded ws pc).isDefined y x = true :=
  (allDefined_iff _).mp (loaded_allDefined s ws pc) y x

end Loaded

/-- The bytes of a payload that was packed from a grid are the cells of that grid. -/
theorem payloadByte_packPayload (b : GridBytes) (i : Fin 36) : payloadByte (packPayload b) i = b[i] := by
  rw [← unpackPayload_getElem, unpackPayload_packPayload]

/-! One payload word -/

/-- The ninth word loads the payload that it completes. -/
theorem takePayload_eq_loaded {s : State} (w : Word) (h : s.pendCount.val = 8) :
    takePayload w s = s.loaded (s.pendWords.set 8 w) (s.pc + 1) := by
  rw [takePayload_of_last w h, loadPayload_eq_loaded]
  simp only [State.loaded, State.storePayload, State.advance, h]

theorem takePayload_grid_of_not_last {s : State} (w : Word) (h : s.pendCount.val ≠ 8) :
    (takePayload w s).cells = s.cells ∧ (takePayload w s).defined = s.defined := by
  rw [takePayload_of_not_last w h]
  exact ⟨rfl, rfl⟩

/-- Payload words leave the grid as long as the ninth is not among them. -/
theorem foldl_takePayload_grid (ws : List Word) {s : State} (h : s.pendCount.val + ws.length ≤ 8) :
    (ws.foldl (fun u w => takePayload w u) s).cells = s.cells ∧
      (ws.foldl (fun u w => takePayload w u) s).defined = s.defined := by
  induction ws generalizing s with
  | nil => exact ⟨rfl, rfl⟩
  | cons w ws ih =>
    rw [List.length_cons] at h
    obtain ⟨-, hcount⟩ := takePayload_pending w (s := s) (by omega)
    obtain ⟨hcells, hdefined⟩ := takePayload_grid_of_not_last w (s := s) (by omega)
    rw [List.foldl_cons, ← hcells, ← hdefined]
    exact ih (by omega)

/-! SETALL -/

theorem firstCause_setall {s : State} (hinit : s.init = true) : firstCause .setall s = .none :=
  firstCause_of_no_read rfl (fun _ _ => rfl) rfl hinit

/-- Settles O33: the header has the effect of SETALL, and a payload word is counted or completes the load. -/
theorem setallTakesItsPayload : Obligations.SetallTakesItsPayload := by
  unfold Obligations.SetallTakesItsPayload
  refine ⟨fun s hinit => exec_of_no_cause (firstCause_setall hinit), fun s => exec_of_not_init rfl,
    fun s w hr hf hp hw => ?_, fun w => decode_eq_ok_iff_header⟩
  have hstep := step_of_payload hr hf hw hp
  constructor
  · intro hlt
    refine ⟨_, hstep, (takePayload_pending w hlt).2, ?_⟩
    rw [takePayload_of_not_last w hlt.ne]
    rfl
  · intro hlast
    rw [takePayload_eq_loaded w hlast] at hstep
    refine ⟨_, hstep, fun i y x hy hx => ?_, ?_⟩
    · obtain rfl := eq_cellIx hy hx
      exact ⟨loaded_isDefined .., loaded_cell ..⟩
    · simp only [State.loaded]

/-- A SETALL that has been given `ws`, fewer than nine words, has not touched the grid. -/
theorem runSteps_setall_partial {s : State} {ws : List Word} (hs : s.Ready) (hinit : s.init = true)
    (hlen : ws.length ≤ 8) (hws : header .setall :: ws <+: s.stream.drop s.pc) :
    ∃ t, runSteps (ws.length + 1) s = .next t ∧ t.cells = s.cells ∧ t.defined = s.defined := by
  obtain ⟨hr, hf, hp⟩ := hs
  obtain ⟨hw, hpayload⟩ := nextWord_of_words_at_pc hws
  have hopen : step s = .next (commandEffect Config.device .setall s) := by
    rw [step_of_command hr hf hw hp (decode_header _), exec_of_no_cause (firstCause_setall hinit)]
  have hcount : (commandEffect Config.device .setall s).pendCount.val + ws.length ≤ 8 := by
    simpa [commandEffect] using hlen
  have hrun := runSteps_payload ws (s := commandEffect Config.device .setall s) (by simp [hr]) (by simp [hf]) rfl
    (by omega) (by simpa using hpayload)
  exact ⟨_, (runSteps_of_step hopen).trans hrun, foldl_takePayload_grid ws hcount⟩

/-- Settles O34: nine steps take at most eight payload words, and the tenth loads the bytes that were packed. -/
theorem setallLoadsTheGridInTenSteps : Obligations.SetallLoadsTheGridInTenSteps := by
  unfold Obligations.SetallLoadsTheGridInTenSteps
  intro s b hs hinit hws
  constructor
  · intro k hk
    cases k with
    | zero => exact ⟨s, rfl, rfl, rfl⟩
    | succ k =>
      have hlen : ((packPayload b).toList.take k).length = k := by
        rw [List.length_take, Vector.length_toList]
        omega
      have hfirst : header .setall :: (packPayload b).toList.take k <+: (HostCommand.load b).words :=
        List.take_prefix (k + 1) (HostCommand.load b).words
      have hpart := runSteps_setall_partial hs hinit (by omega) (hfirst.trans hws)
      rwa [hlen] at hpart
  · refine ⟨_, runSteps_setall hs hinit hws, loaded_allDefined _ _ _, ?_⟩
    simp only [State.loaded, unpackPayload_packPayload]

/-! GETALL -/

theorem firstCause_getall (s : State) : firstCause .getall s = if s.AllDefined then .none else .undefinedCell :=
  firstCause_of_readsGrid rfl fun h => absurd h (by decide)

theorem exec_getall_of_allDefined {s : State} (hd : s.AllDefined) :
    exec .getall s = .next { s with trace := s.trace ++ [.resp s.gridBytes], pc := s.pc + 1 } :=
  exec_of_no_cause ((firstCause_getall s).trans (if_pos hd))

theorem exec_getall_of_undefined {s : State} (h : ∃ y x, s.isDefined y x = false) :
    exec .getall s = .next { s with faultCause := .undefinedCell } :=
  exec_of_cause (by decide) ((firstCause_getall s).trans (if_neg ((not_allDefined_iff s).mpr h)))

/-- Settles O35: GETALL checks nothing but the tags, all of which are set after reset under ZERO and none under UNDEF. -/
theorem getallEmitsTheGrid : Obligations.GetallEmitsTheGrid := by
  unfold Obligations.GetallEmitsTheGrid
  refine ⟨fun s hd => ⟨_, exec_getall_of_allDefined hd, fun i y x hy hx => ?_⟩, fun s => exec_getall_of_undefined,
    ?_, ?_, fun w => decode_eq_ok_iff_header⟩
  · obtain rfl := eq_cellIx hy hx
    exact gridBytes_serial s y x
  · have hd : (State.resetWith .zero).AllDefined := fun i => by simp
    simpa using exec_getall_of_allDefined hd
  · exact exec_getall_of_undefined ⟨0, 0, by simp [State.isDefined]⟩

/-- Settles O36: what SETALL loads from the packed bytes of GETALL are the cells that GETALL read. -/
theorem getallThenSetallRestoresTheGrid : Obligations.GetallThenSetallRestoresTheGrid := by
  unfold Obligations.GetallThenSetallRestoresTheGrid
  intro s t hd ht hinit
  refine ⟨s.gridBytes, exec_getall_of_allDefined hd, fun hws => ?_⟩
  refine ⟨_, runSteps_setall ht hinit hws, loaded_allDefined _ _ _, fun y x => ?_⟩
  rw [loaded_cell, payloadByte_packPayload]
  exact gridBytes_serial s y x

end Sys2Proof.Machine
end

section
/-! PROOFS. META and METAR (spec/42_meta_render.md R153 to R157). They are one command up to the mode, and the scan over
the planes applies the overlay mask `M(d)` to each cell, so that bits and laws are those of `RenderMode.apply`. -/

namespace Sys2Proof.Machine

/-! The overlay of one cell -/

theorem apply_getLsbD_normal (v e : Byte) (b : Nat) :
    (RenderMode.normal.apply v e).getLsbD b = (v.getLsbD b || e.getLsbD b) := BitVec.getLsbD_or

theorem apply_getLsbD_reverse (v e : Byte) (b : Fin 8) :
    (RenderMode.reverse.apply v e).getLsbD b.val = (v.getLsbD b.val && !e.getLsbD b.val) := by
  simp [RenderMode.apply]

/-- The normal overlay on an empty cell is the mask itself (R157). -/
@[simp] theorem apply_normal_zero (e : Byte) : RenderMode.normal.apply 0x00#8 e = e := BitVec.zero_or

/-- The reverse overlay on a full cell is the complement of the mask (R157). -/
@[simp] theorem apply_reverse_ones (e : Byte) : RenderMode.reverse.apply 0xFF#8 e = ~~~e := BitVec.allOnes_and

/-- The scan over the planes applies the overlay mask to each cell (R153). -/
theorem overlayAll_getElem_cellIx (c : Config) (m : RenderMode) (digit : Nibble) (g : GridBytes) (y x : Coord) :
    (overlayAll c m (lutEntry c (digitIx digit)) g)[cellIx y x] =
      m.apply g[cellIx y x] (overlayMask c digit y x) := by
  rw [overlayMask_eq_litPlanes]
  cases m with
  | normal => simp only [overlayAll, scan_normal_getElem, rowOf_cellIx, colOf_cellIx, RenderMode.apply]
  | reverse => simp only [overlayAll, scan_reverse_getElem, rowOf_cellIx, colOf_cellIx, RenderMode.apply]

/-- A bit of the overlay mask is 1 exactly when a plane that the digit lights holds it (R153, and 20_memory.md R52 for the
layout of the tables). -/
theorem overlayMask_getLsbD (c : Config) (digit : Nibble) (y x : Coord) (b : Nat) :
    (overlayMask c digit y x).getLsbD b =
      decide (∃ p : Fin 8, (c.nst[digit.toNat]'(digit.isLt)).getLsbD (7 - p.val) = true ∧
        (c.rom[36 * p.val + 6 * y.val + x.val]).getLsbD b = true) := by
  rw [Bool.eq_iff_iff, decide_eq_true_iff, overlayMask_eq_litPlanes, litPlanes_getLsbD]
  simp [segmentBit, stencilEntry, lutEntry, digitIx]

/-! The two commands as one, in every configuration -/

/-- The command of a mode: META is the normal one (R155), METAR the reverse one (R156). -/
def RenderMode.command (m : RenderMode) (digit : Nibble) : Instr :=
  match m with
  | .normal => .metaNumber digit
  | .reverse => .metaReverse digit

@[simp] theorem command_normal (digit : Nibble) : RenderMode.normal.command digit = .metaNumber digit := rfl
@[simp] theorem command_reverse (digit : Nibble) : RenderMode.reverse.command digit = .metaReverse digit := rfl

theorem execWith_of_no_cause (c : Config) {i : Instr} {s : State} (h : firstCause i s = .none) :
    execWith c i s = .next (commandEffect c i s) := by
  rw [execWith_spec, if_pos h]

section Render

variable (c : Config) (m : RenderMode) (digit : Nibble) {s : State}

theorem isMutator_command : isMutator (m.command digit) = true := by cases m <;> rfl

theorem readsGrid_command : readsGrid (m.command digit) = true := by cases m <;> rfl

theorem commandEffect_command (s : State) :
    commandEffect c (m.command digit) s =
      (s.setGrid fun y x => m.apply (s.cell y x) (overlayMask c digit y x)).advance := by
  simp only [State.cell, ← overlayAll_getElem_cellIx]
  cases m <;> rfl

theorem firstCause_command (hinit : s.init = true) :
    firstCause (m.command digit) s = if s.AllDefined then .none else .undefinedCell :=
  firstCause_of_readsGrid (readsGrid_command m digit) fun _ => hinit

theorem execWith_command (hinit : s.init = true) (hd : s.AllDefined) :
    execWith c (m.command digit) s =
      .next (s.setGrid fun y x => m.apply (s.cell y x) (overlayMask c digit y x)).advance := by
  rw [execWith_of_no_cause c ((firstCause_command m digit hinit).trans (if_pos hd)), commandEffect_command]

/-- On a defined grid of an initialised block the command writes the overlay to every cell, and nothing else. -/
theorem execWith_command_gridWritten (hinit : s.init = true) (hd : s.AllDefined) :
    ∃ t, execWith c (m.command digit) s = .next t ∧
      s.GridWritten t fun y x => m.apply (s.cell y x) (overlayMask c digit y x) :=
  ⟨_, execWith_command c m digit hinit hd, setGrid_advance_gridWritten s _⟩

theorem exec_command_gridWritten (hinit : s.init = true) (hd : s.AllDefined) :
    ∃ t, exec (m.command digit) s = .next t ∧
      s.GridWritten t fun y x => m.apply (s.cell y x) (overlayMask Config.device digit y x) := by
  rw [exec_eq_execWith]
  exact execWith_command_gridWritten Config.device m digit hinit hd

theorem exec_command_of_not_init (hinit : s.init = false) :
    exec (m.command digit) s = .next { s with faultCause := .notInitialized } :=
  exec_of_not_init (isMutator_command m digit) hinit

theorem exec_command_of_undefined (hinit : s.init = true) (hundef : ∃ y x, s.isDefined y x = false) :
    exec (m.command digit) s = .next { s with faultCause := .undefinedCell } :=
  exec_of_cause (by decide) ((firstCause_command m digit hinit).trans (if_neg ((not_allDefined_iff s).mpr hundef)))

end Render

/-- Settles O37: the written cell is the overlay of the mask, whose bits are those of the lit planes. -/
theorem metaNumbersOverlayTheLitStencils : Obligations.MetaNumbersOverlayTheLitStencils := by
  unfold Obligations.MetaNumbersOverlayTheLitStencils
  intro c digit s hinit hd
  refine ⟨⟨_, execWith_command_gridWritten c .normal digit hinit hd, fun y x b => ?_⟩,
    ⟨_, execWith_command_gridWritten c .reverse digit hinit hd, fun y x b => ?_⟩,
    exec_eq_execWith _ s, exec_eq_execWith _ s⟩
  · rw [apply_getLsbD_normal, overlayMask_getLsbD]
  · rw [apply_getLsbD_reverse, overlayMask_getLsbD]

/-- Settles O38, clause by clause, each for the two modes. -/
theorem metaNumbersApplyTheOverlayMask : Obligations.MetaNumbersApplyTheOverlayMask := by
  unfold Obligations.MetaNumbersApplyTheOverlayMask
  refine ⟨fun digit s hinit hd => ⟨?_, ?_⟩, fun digit s hinit => ⟨?_, ?_⟩, fun digit s hinit hundef => ⟨?_, ?_⟩,
    fun w => decode_instr_iff w .metaNumber, fun w => decode_instr_iff w .metaReverse⟩
  · exact exec_command_gridWritten .normal digit hinit hd
  · exact exec_command_gridWritten .reverse digit hinit hd
  · exact exec_command_of_not_init .normal digit hinit
  · exact exec_command_of_not_init .reverse digit hinit
  · exact exec_command_of_undefined .normal digit hinit hundef
  · exact exec_command_of_undefined .reverse digit hinit hundef

/-! The laws (R157) -/

theorem advance_allDefined {s : State} (h : s.AllDefined) : s.advance.AllDefined := h

theorem execAll_cons_of_next {run : Instr → State → Result} {i : Instr} {s t : State} (h : run i s = .next t)
    (is : List Instr) : execAll run (i :: is) s = execAll run is t := by
  rw [execAll, h]

section Laws

variable (c : Config) {s : State} (hinit : s.init = true)

include hinit

theorem execWith_clr : execWith c .clr s = .next (s.setGrid fun _ _ => 0x00#8).advance :=
  execWith_of_no_cause c (firstCause_of_no_read rfl (fun _ _ => rfl) rfl hinit)

theorem execWith_fill : execWith c .fill s = .next (s.setGrid fun _ _ => 0xFF#8).advance :=
  execWith_of_no_cause c (firstCause_of_no_read rfl (fun _ _ => rfl) rfl hinit)

theorem execWith_rev (hd : s.AllDefined) :
    execWith c .rev s = .next (s.setGrid fun y x => ~~~s.cell y x).advance :=
  execWith_of_no_cause c ((firstCause_of_readsGrid rfl fun _ => hinit).trans (if_pos hd))

/-- A background and then a numeral: the background defines every cell, so that the numeral is drawn whatever the grid
held before. -/
theorem execAll_background_command {i : Instr} {v : Byte} (m : RenderMode) (digit : Nibble) (is : List Instr)
    (hi : execWith c i s = .next (s.setGrid fun _ _ => v).advance) :
    execAll (execWith c) (i :: m.command digit :: is) s =
      execAll (execWith c) is (s.setGrid fun y x => m.apply v (overlayMask c digit y x)).advance.advance := by
  have hdraw := execWith_command c m digit (s := (s.setGrid fun _ _ => v).advance) (by simp [hinit])
    (advance_allDefined (setGrid_allDefined s _))
  simp only [advance_setGrid, setGrid_setGrid, advance_cell, setGrid_cell] at hdraw
  rw [execAll_cons_of_next hi, execAll_cons_of_next hdraw]

theorem execAll_clr_metaNumber (digit : Nibble) (is : List Instr) :
    execAll (execWith c) (.clr :: .metaNumber digit :: is) s =
      execAll (execWith c) is (s.setGrid fun y x => overlayMask c digit y x).advance.advance := by
  simpa using execAll_background_command c hinit .normal digit is (execWith_clr c hinit)

theorem execAll_fill_metaReverse (digit : Nibble) (is : List Instr) :
    execAll (execWith c) (.fill :: .metaReverse digit :: is) s =
      execAll (execWith c) is (s.setGrid fun y x => ~~~overlayMask c digit y x).advance.advance := by
  simpa using execAll_background_command c hinit .reverse digit is (execWith_fill c hinit)

/-- REV after the numeral leaves the complement of the mask, which METAR draws, one word further on. -/
theorem execAll_clr_metaNumber_rev (digit : Nibble) :
    execAll (execWith c) [.clr, .metaNumber digit, .rev] s =
      .next (s.setGrid fun y x => ~~~overlayMask c digit y x).advance.advance.advance := by
  have hrev := execWith_rev c (s := (s.setGrid fun y x => overlayMask c digit y x).advance.advance) (by simp [hinit])
    (advance_allDefined (advance_allDefined (setGrid_allDefined s _)))
  simp only [advance_setGrid, setGrid_setGrid, advance_cell, setGrid_cell] at hrev
  rw [execAll_clr_metaNumber c hinit, execAll_cons_of_next hrev, execAll]

end Laws

/-- Settles O39: a background makes the overlay the mask or its complement, and REV turns the one into the other. -/
theorem metaNumberLaws : Obligations.MetaNumberLaws := by
  unfold Obligations.MetaNumberLaws
  intro c digit s hinit
  refine ⟨⟨_, execAll_clr_metaNumber c hinit digit [], by simp⟩,
    ⟨_, execAll_fill_metaReverse c hinit digit [], by simp⟩, ?_⟩
  rw [execAll_clr_metaNumber_rev c hinit, execAll_fill_metaReverse c hinit]
  exact sameButPc_advance _

end Sys2Proof.Machine
end

section
/-! PROOFS. INIT and BRIGHT (spec/43_control.md R181 to R185). Neither reads a cell, so that the INIT bit alone decides
whether they fault; INIT asks for it clear, BRIGHT for it set. -/

namespace Sys2Proof.Machine

/-! INIT (R181, R182) -/

theorem exec_init_of_not_init {s : State} (hinit : s.init = false) :
    exec .init s = .next { s with init := true, trace := s.trace ++ [.busInit], pc := s.pc + 1 } :=
  exec_of_no_cause (by simp [firstCause_init, hinit])

theorem exec_init_of_init {s : State} (hinit : s.init = true) :
    exec .init s = .next { s with faultCause := .alreadyInitialized } :=
  exec_of_cause (by decide) (by simp [firstCause_init, hinit])

/-- Settles O24: the INIT bit is the one check of INIT, and the header is its one encoding. -/
theorem initBindsTheBusOnce : Obligations.InitBindsTheBusOnce := by
  unfold Obligations.InitBindsTheBusOnce
  exact ⟨fun _ => exec_init_of_not_init, fun _ => exec_init_of_init, fun _ => decode_eq_ok_iff_header⟩

/-! BRIGHT (R184, R185) -/

theorem levelLegal_eq_true_iff {level : Byte} : levelLegal level = true ↔ level.toNat ≤ 15 := by
  rw [levelLegal, decide_eq_true_iff, Nat.lt_succ_iff]

theorem execWith_of_not_init (c : Config) {i : Instr} {s : State} (hm : isMutator i = true) (h : s.init = false) :
    execWith c i s = .next { s with faultCause := .notInitialized } := by
  rw [execWith_spec, firstCause_of_not_init hm h]
  rfl

section Bright

variable (c : Config) {level : Byte} {s : State}

theorem execWith_bright (hinit : s.init = true) :
    execWith c (.bright level) s = .next (if levelLegal level then s.acceptLevel c (levelBits level)
      else s.emit [.logBrightnessRejected level]).advance :=
  execWith_of_no_cause c (firstCause_of_no_read rfl (fun _ _ => rfl) rfl hinit)

theorem execWith_bright_of_legal (hinit : s.init = true) (hlevel : level.toNat ≤ 15) :
    execWith c (.bright level) s = .next { s with
      bright := level.extractLsb' 0 4
      brightDef := true
      trace := s.trace ++ [.busBrightness c.unitAddr[0] (level.extractLsb' 0 4),
        .busBrightness c.unitAddr[1] (level.extractLsb' 0 4), .busBrightness c.unitAddr[2] (level.extractLsb' 0 4)]
      pc := s.pc + 1 } := by
  rw [execWith_bright c hinit, if_pos (levelLegal_eq_true_iff.mpr hlevel)]
  rfl

theorem execWith_bright_of_rejected (hinit : s.init = true) (hlevel : 16 ≤ level.toNat) :
    execWith c (.bright level) s =
      .next { s with trace := s.trace ++ [.logBrightnessRejected level], pc := s.pc + 1 } := by
  rw [execWith_bright c hinit, if_neg (Bool.eq_false_iff.mp (levelLegal_eq_false_iff.mpr hlevel))]
  rfl

end Bright

/-- Settles O25: the three outcomes in a configuration, and on the device as the configuration of R7. -/
theorem brightSetsOrRejectsTheLevel : Obligations.BrightSetsOrRejectsTheLevel := by
  unfold Obligations.BrightSetsOrRejectsTheLevel
  refine ⟨fun c level s => ⟨?_, ?_, ?_⟩, fun level s hinit hlevel => ?_, fun level s hinit hlevel => ?_,
    fun level s => exec_of_not_init rfl, fun w => decode_instr_iff w .bright⟩
  · exact execWith_bright_of_legal c
  · exact execWith_bright_of_rejected c
  · exact execWith_of_not_init c rfl
  · exact (exec_eq_execWith _ s).trans (execWith_bright_of_legal Config.device hinit hlevel)
  · exact (exec_eq_execWith _ s).trans (execWith_bright_of_rejected Config.device hinit hlevel)

end Sys2Proof.Machine
end

section
/-! PROOFS. The invariant of the device (`State.Inv`) across a step. A step is a reset, a raised fault, a payload word or
the effect of a command, and each of the four keeps it. -/

namespace Sys2Proof.Machine

/-! What each of the four does to the parts that the invariant speaks of -/

theorem firstCause_ne_digitSlotRange (i : Instr) (s : State) : firstCause i s ≠ .digitSlotRange := by
  unfold firstCause
  split_ifs <;> decide

/-- Only an index within the stream names a word. -/
theorem pc_lt_of_nextWord {s : State} {w : Word} (hw : s.nextWord = some w) : s.pc < s.stream.length :=
  (List.getElem?_eq_some_iff.mp hw).1

/-- The brightness last sent is that of the newer records, or of the older ones when the newer send none. -/
theorem lastBrightness_append (tr rs : List Record) :
    lastBrightness (tr ++ rs) = (lastBrightness rs).or (lastBrightness tr) := by
  rw [lastBrightness, List.reverse_append, List.findSome?_append]
  rfl

theorem brightness_congr {s t : State} (hb : t.bright = s.bright) (hd : t.brightDef = s.brightDef) :
    t.brightness = s.brightness := by
  rw [State.brightness, State.brightness, hb, hd]

@[simp] theorem takePayload_bright (w : Word) (s : State) : (takePayload w s).bright = s.bright := by
  unfold takePayload; split <;> simp

@[simp] theorem takePayload_trace (w : Word) (s : State) : (takePayload w s).trace = s.trace := by
  unfold takePayload; split <;> simp

/-- The word that ends a payload is the one that clears the count (R131). -/
theorem takePayload_pendCount_of_done {s : State} (w : Word) (hp : s.pendActive = true)
    (hdone : (takePayload w s).pendActive = false) : (takePayload w s).pendCount = 0 := by
  by_cases hlast : s.pendCount.val = 8
  · simp [takePayload_of_last w hlast]
  · simp [takePayload_of_not_last w hlast, hp] at hdone

/-- INIT is the one command that binds the bus, with one record (R181). -/
theorem count_busInit_emittedRecords (c : Config) (i : Instr) (s : State) :
    (emittedRecords c i s).count .busInit = if i = .init then 1 else 0 := by
  cases i with
  | bright level => cases h : levelLegal level <;> simp [emittedRecords, h, brightnessRecords, List.count_eq_zero]
  | update => simp [emittedRecords, displayRecords, List.count_eq_zero]
  | _ => simp [emittedRecords]

/-- A level that is accepted is the one sent to the units (R183, R184). -/
theorem lastBrightness_emittedRecords_of_legal (c : Config) {level : Byte} (s : State)
    (h : levelLegal level = true) :
    lastBrightness (emittedRecords c (.bright level) s) = some (levelBits level) := by
  rw [emittedRecords, if_pos h]
  rfl

theorem lastBrightness_emittedRecords_of_not_legal (c : Config) {i : Instr} (s : State)
    (h : ∀ level, i = .bright level → levelLegal level = false) :
    lastBrightness (emittedRecords c i s) = none := by
  cases i with
  | bright level =>
    rw [emittedRecords, if_neg (Bool.eq_false_iff.mp (h level rfl))]
    rfl
  | _ => rfl

/-- The brightness after a command is the level it has sent, or else the one before it. -/
theorem commandEffect_brightness (c : Config) (i : Instr) (s : State) :
    (commandEffect c i s).brightness = (lastBrightness (emittedRecords c i s)).or s.brightness := by
  by_cases h : ∃ level, i = .bright level ∧ levelLegal level = true
  · obtain ⟨level, rfl, hlegal⟩ := h
    rw [lastBrightness_emittedRecords_of_legal c s hlegal]
    simp [commandEffect, hlegal, State.brightness]
  · have hbad : ∀ level, i = .bright level → levelLegal level = false := by simpa using h
    obtain ⟨hb, hd⟩ := commandEffect_brightness_of_not_legal (c := c) (s := s) hbad
    rw [lastBrightness_emittedRecords_of_not_legal c s hbad, brightness_congr hb hd, Option.none_or]

/-! The four keep the invariant -/

/-- Reset with any words presented: the clauses of R35, and `pc` at the first of the words. -/
theorem inv_afterReset (ws : List Word) : (State.afterReset State.reset ws).Inv :=
  { resetMeetsTheInvariant with pc_ok := Nat.zero_le _ }

section Kept

variable {s : State} (h : s.Inv)

include h

/-- A fault other than DIGIT_SLOT_RANGE, raised outside a payload. -/
theorem inv_raise {f : FaultCause} (hf : f ≠ .digitSlotRange) (hp : s.pendActive = false) :
    (s.raise f).Inv :=
  { h with
    slot_in_range := hf
    pending_ok := fun hpend => absurd (hp.symm.trans hpend) (by decide) }

/-- A payload word: the block is initialised while it takes one. -/
theorem inv_takePayload {w : Word} (hw : s.nextWord = some w) (hp : s.pendActive = true) :
    (takePayload w s).Inv := by
  obtain ⟨hinit, hf⟩ := h.pending_ok hp
  have hpc := pc_lt_of_nextWord hw
  exact {
    slot_in_range := by simp [hf]
    pending_ok := by simp [hinit, hf]
    count_ok := takePayload_pendCount_of_done w hp
    bright_ok := by simp [hinit]
    uninit_ok := by simp [hinit]
    pc_ok := by simpa using hpc
    bus_init_once := by simpa using h.bus_init_once
    bright_sent := by simpa [State.brightness] using h.bright_sent }

/-- Before INIT no mutator passes its checks, and GETALL finds no cell defined: a command that passes leaves the block
initialised. -/
theorem commandEffect_init_of_inv (c : Config) {i : Instr} (hc : firstCause i s = .none) :
    (commandEffect c i s).init = true := by
  obtain ⟨-, hmutator, -, hreads⟩ := firstCause_eq_none.mp hc
  by_cases hinit : s.init = true
  · exact commandEffect_init_of_init hinit
  · have hnone : s.init = false := by simpa using hinit
    cases i with
    | init => simp [commandEffect]
    | getall =>
      obtain ⟨hundef, -⟩ := h.uninit_ok hnone
      have hdef : s.isDefined 0 0 = true := hreads 0 0 rfl
      exact absurd hdef (by rw [State.isDefined, hundef]; decide)
    | _ => exact absurd (hmutator rfl) hinit

/-- After a command that passes its checks the bus has been bound once: by INIT now, or before it (R181, R182). -/
theorem commandEffect_count_busInit (c : Config) {i : Instr} (hc : firstCause i s = .none) :
    (commandEffect c i s).trace.count .busInit = 1 := by
  rw [commandEffect_trace, List.count_append, h.bus_init_once, count_busInit_emittedRecords]
  by_cases hi : i = .init
  · obtain ⟨hfresh, -⟩ := firstCause_eq_none.mp hc
    simp [hi, hfresh hi]
  · have hinit : s.init = true := (commandEffect_init_of_ne hi).symm.trans (commandEffect_init_of_inv h c hc)
    simp [hi, hinit]

/-- The effect of a command that passes its checks, on an unfaulted block outside a payload. -/
theorem inv_commandEffect (c : Config) {i : Instr} (hc : firstCause i s = .none) (hf : s.faultCause = .none)
    (hp : s.pendActive = false) (hpc : s.pc < s.stream.length) : (commandEffect c i s).Inv := by
  have hinit := commandEffect_init_of_inv h c hc
  exact {
    slot_in_range := by simp [hf]
    pending_ok := by simp [hinit, hf]
    count_ok := by
      intro hdone
      by_cases hi : i = .setall
      · simp [hi, commandEffect] at hdone
      · rw [(commandEffect_pending_of_ne hi).2, h.count_ok hp]
    bright_ok := fun _ => hinit
    uninit_ok := by simp [hinit]
    pc_ok := by simpa using hpc
    bus_init_once := by rw [commandEffect_count_busInit h c hc, if_pos hinit]
    bright_sent := by
      rw [commandEffect_trace, lastBrightness_append, h.bright_sent, commandEffect_brightness] }

end Kept

/-- Settles O51, by what a step can do: a reset, a payload word, a fault, or the effect of a command. -/
theorem everyStepKeepsTheInvariant : Obligations.EveryStepKeepsTheInvariant := by
  unfold Obligations.EveryStepKeepsTheInvariant
  intro s t hs h
  rcases step_cases h with ⟨ws, -, rfl⟩ | ⟨-, hf, w, hw, ⟨hp, rfl⟩ | ⟨hp, -, rfl⟩ | ⟨hp, i, -, hexec⟩⟩
  · exact inv_afterReset ws
  · exact inv_takePayload hs hw hp
  · exact inv_raise hs (by decide) hp
  · rcases exec_cases hexec with ⟨-, rfl⟩ | ⟨hc, rfl⟩
    · exact inv_raise hs (firstCause_ne_digitSlotRange i s) hp
    · exact inv_commandEffect hs Config.device hc hf hp (pc_lt_of_nextWord hw)

end Sys2Proof.Machine
end

section
/-! PROOFS. The encoder (spec/44_encoder.md R200 to R207). The map from the cell bits of a unit to its image bits is
one-to-one, so that an image bit is the segment that maps to it, or 0; the multiplexer reading and the laws of R207 all
follow from that. -/

namespace Sys2Proof.Machine

/-! The map from cell bits to image bits (R202, R204) -/

/-- The plane of an image byte: `p = k div 2` (R204). -/
def planeOf (k : Fin 16) : Fin 8 := ⟨k.val / 2, by omega⟩

/-- The slot of an image bit: `d = 8(k mod 2) + b` (R204). -/
def slotAt (k : Fin 16) (b : Fin 8) : Fin 16 := ⟨8 * (k.val % 2) + b.val, by omega⟩

/-- Byte and bit of an image name one plane and one slot, those of the multiplexer reading. -/
theorem imagePlace_eq_iff {p : Fin 8} {d k : Fin 16} {b : Fin 8} :
    imageByte p d = k ∧ imageBit d = b.val ↔ p = planeOf k ∧ d = slotAt k b := by
  simp only [imageByte, imageBit, planeOf, slotAt, Fin.ext_iff]
  omega

theorem imagePlace_inj {p p' : Fin 8} {d d' : Fin 16} (hbyte : imageByte p d = imageByte p' d')
    (hbit : imageBit d = imageBit d') : p = p' ∧ d = d' := by
  simp only [imageByte, imageBit, Fin.ext_iff] at hbyte hbit ⊢
  omega

theorem imageBit_lt (d : Fin 16) : imageBit d < 8 := Nat.mod_lt _ (by decide)

/-- Settles O42: byte and bit give the plane and the slot, and the slot gives row and column. -/
theorem cellBitsMapOneToOne : Obligations.CellBitsMapOneToOne := by
  unfold Obligations.CellBitsMapOneToOne
  rintro base u u' r r' x x' p p' ⟨hu, hbyte, hbit⟩
  obtain ⟨hp, hslot⟩ := imagePlace_inj hbyte hbit
  obtain ⟨hr, hx⟩ := slotOf_inj base r r' x x' hslot
  exact ⟨hu, hr, hx, hp⟩

/-! One image bit -/

section ImageBit

variable (base : SlotBase) (g : GridBytes) (u : Fin 3)

/-- The image bit that a segment maps to is that segment. -/
theorem imageOf_getLsbD_of_segment (r : Fin 2) (x : Coord) (p : Fin 8) :
    ((imageOf base g u)[imageByte p (slotOf base r x)]).getLsbD (imageBit (slotOf base r x)) =
      segmentBit g[cellIx (unitRow u r) x] p := by
  rw [Bool.eq_iff_iff, imageOf_getLsbD _ _ _ _ _ (imageBit_lt _)]
  constructor
  · rintro ⟨r', x', p', hlit, hbyte, hbit⟩
    obtain ⟨-, rfl, rfl, rfl⟩ := cellBitsMapOneToOne base u u r' r x' x p' p ⟨rfl, hbyte, hbit⟩
    exact hlit
  · exact fun hlit => ⟨r, x, p, hlit, rfl, rfl⟩

/-- An image bit that no segment maps to is 0 (R203). -/
theorem imageOf_getLsbD_of_no_segment {k : Fin 16} {b : Fin 8}
    (h : ∀ r x p, ¬ (imageByte p (slotOf base r x) = k ∧ imageBit (slotOf base r x) = b.val)) :
    ((imageOf base g u)[k]).getLsbD b.val = false := by
  rw [Bool.eq_false_iff, Ne, imageOf_getLsbD _ _ _ _ _ b.isLt]
  rintro ⟨r, x, p, -, hplace⟩
  exact h r x p hplace

variable {k : Fin 16} {b : Fin 8}

/-- The image bit of a slot that a cell has is the segment of that cell in the plane of the byte. -/
theorem imageOf_getLsbD_of_slot {r : Fin 2} {x : Coord} (h : slotOf base r x = slotAt k b) :
    ((imageOf base g u)[k]).getLsbD b.val = segmentBit g[cellIx (unitRow u r) x] (planeOf k) := by
  obtain ⟨hbyte, hbit⟩ := imagePlace_eq_iff.mpr ⟨rfl, h⟩
  simpa only [hbyte, hbit] using imageOf_getLsbD_of_segment base g u r x (planeOf k)

/-- The image bit of a slot that no cell has is 0. -/
theorem imageOf_getLsbD_of_no_slot (h : ∀ r x, slotOf base r x ≠ slotAt k b) :
    ((imageOf base g u)[k]).getLsbD b.val = false :=
  imageOf_getLsbD_of_no_segment base g u fun r x _ hplace => h r x (imagePlace_eq_iff.mp hplace).2

end ImageBit

/-- Images are equal when they agree in every bit. -/
theorem image_ext {img img' : Image}
    (h : ∀ (k : Fin 16) (b : Fin 8), (img[k]).getLsbD b.val = (img'[k]).getLsbD b.val) : img = img' :=
  Vector.ext fun k hk => BitVec.eq_of_getLsbD_eq fun b hb => h ⟨k, hk⟩ ⟨b, hb⟩

/-- Settles O41: a segment is at its place, and a bit at the place of no segment is 0. -/
theorem segmentsLandAtTheirSlots : Obligations.SegmentsLandAtTheirSlots := by
  unfold Obligations.SegmentsLandAtTheirSlots
  intro base g u
  constructor
  · intro r x p d k hd hk
    obtain rfl : d = slotOf base r x := Fin.ext hd
    obtain rfl : k = imageByte p (slotOf base r x) := Fin.ext hk
    exact imageOf_getLsbD_of_segment base g u r x p
  · intro k b hfree
    exact imageOf_getLsbD_of_no_slot base g u fun r x hslot => hfree r x (congrArg Fin.val hslot)

/-! The multiplexer reading (R204) -/

/-- The rows of a unit stand `ROW1_SLOT_BASE` slots apart (R201). -/
theorem slotOf_eq_iff {base : SlotBase} {r : Fin 2} {x : Coord} {d : Fin 16} :
    slotOf base r x = d ↔ base.toNat * r.val + x.val = d.val := by
  rw [Fin.ext_iff, slotOf_val]
  match r with
  | 0 => simp
  | 1 => simp

/-- Each bit of an image is the one the multiplexer reading names: its slot is a cell's or no cell's. -/
theorem imageOf_getLsbD_eq_muxBit (base : SlotBase) (g : GridBytes) (u : Fin 3) (k : Fin 16) (b : Fin 8) :
    ((imageOf base g u)[k]).getLsbD b.val = muxBit base g u k b := by
  cases base with
  | six =>
    dsimp only [muxBit]
    split_ifs with hrow0 hrow1
    · refine imageOf_getLsbD_of_slot .six g u (r := 0) (x := ⟨_, _⟩) (slotOf_eq_iff.mpr ?_)
      simp [slotAt, SlotBase.toNat]
    · refine imageOf_getLsbD_of_slot .six g u (r := 1) (x := ⟨_, _⟩) (slotOf_eq_iff.mpr ?_)
      simp only [slotAt, SlotBase.toNat]
      omega
    · refine imageOf_getLsbD_of_no_slot .six g u fun r x hslot => ?_
      have hval := slotOf_eq_iff.mp hslot
      simp only [slotAt, SlotBase.toNat] at hval
      omega
  | eight =>
    dsimp only [muxBit]
    split_ifs with hcol
    · exact imageOf_getLsbD_of_slot .eight g u (r := ⟨_, _⟩) (x := ⟨_, _⟩) (slotOf_eq_iff.mpr rfl)
    · refine imageOf_getLsbD_of_no_slot .eight g u fun r x hslot => ?_
      have hval := slotOf_eq_iff.mp hslot
      simp only [slotAt, SlotBase.toNat] at hval
      omega

/-! UPDATE (R205) -/

/-- The images of the three units. -/
def unitImages (base : SlotBase) (g : GridBytes) : Vector Image 3 := Vector.ofFn (imageOf base g)

theorem unitImages_getLsbD (base : SlotBase) (g : GridBytes) (u : Fin 3) (k : Fin 16) (b : Fin 8) :
    (((unitImages base g)[u])[k]).getLsbD b.val = muxBit base g u k b := by
  rw [← imageOf_getLsbD_eq_muxBit]
  simp [unitImages]

theorem displayRecords_eq (c : Config) (g : GridBytes) :
    displayRecords c g = [.busDisplay c.unitAddr[0] (unitImages c.slotBase g)[0],
      .busDisplay c.unitAddr[1] (unitImages c.slotBase g)[1],
      .busDisplay c.unitAddr[2] (unitImages c.slotBase g)[2]] := by
  simp [displayRecords, List.finRange_succ, unitAddress, unitImages]

theorem firstCause_update {s : State} (hinit : s.init = true) :
    firstCause .update s = if s.AllDefined then .none else .undefinedCell :=
  firstCause_of_readsGrid rfl fun _ => hinit

/-- UPDATE emits the three images and advances; nothing else changes. -/
theorem execWith_update (c : Config) {s : State} (hinit : s.init = true) (hd : s.AllDefined) :
    execWith c .update s = .next { s with
      trace := s.trace ++ [.busDisplay c.unitAddr[0] (unitImages c.slotBase s.cells)[0],
        .busDisplay c.unitAddr[1] (unitImages c.slotBase s.cells)[1],
        .busDisplay c.unitAddr[2] (unitImages c.slotBase s.cells)[2]]
      pc := s.pc + 1 } := by
  rw [execWith_of_no_cause c ((firstCause_update hinit).trans (if_pos hd)), ← displayRecords_eq]
  rfl

/-- Settles O40: the emitted images are those of the units, whose bits the multiplexer reading names. -/
theorem updateIsTheMultiplexer : Obligations.UpdateIsTheMultiplexer := by
  unfold Obligations.UpdateIsTheMultiplexer
  refine ⟨fun s hinit hd => ⟨unitImages .six s.cells, ?_, unitImages_getLsbD .six s.cells⟩,
    fun c s hinit hd => ⟨unitImages c.slotBase s.cells, execWith_update c hinit hd, unitImages_getLsbD _ s.cells⟩,
    fun s => exec_of_not_init rfl, fun s hinit hundef => ?_, fun w => decode_eq_ok_iff_header⟩
  · exact (exec_eq_execWith _ s).trans (execWith_update Config.device hinit hd)
  · exact exec_of_cause (by decide) ((firstCause_update hinit).trans (if_neg ((not_allDefined_iff s).mpr hundef)))

/-! The laws of R207 -/

theorem segmentBit_or (v w : Byte) (p : Fin 8) : segmentBit (v ||| w) p = (segmentBit v p || segmentBit w p) :=
  BitVec.getLsbD_or

/-- The unit of a grid row (R200). -/
def unitOf (y : Coord) : Fin 3 := ⟨y.val / 2, by omega⟩

/-- The row of its unit that a grid row is (R200). -/
def rowInUnit (y : Coord) : Fin 2 := ⟨y.val % 2, by omega⟩

/-- A row of the grid is one row of one unit (R200). -/
theorem unitRow_eq_iff {u : Fin 3} {r : Fin 2} {y : Coord} : unitRow u r = y ↔ u = unitOf y ∧ r = rowInUnit y := by
  simp only [unitRow, unitOf, rowInUnit, Fin.ext_iff]
  omega

theorem unitRow_inj {u u' : Fin 3} {r r' : Fin 2} (h : unitRow u r = unitRow u' r') : u = u' ∧ r = r' := by
  obtain ⟨hu, hr⟩ := unitRow_eq_iff.mp h
  obtain ⟨hu', hr'⟩ := unitRow_eq_iff.mp (rfl : unitRow u' r' = unitRow u' r')
  exact ⟨hu.trans hu'.symm, hr.trans hr'.symm⟩

theorem slotOf_rowInUnit_val (base : SlotBase) (y x : Coord) :
    (slotOf base (rowInUnit y) x).val = (if y.val % 2 = 0 then 0 else base.toNat) + x.val := by
  simp [slotOf_val, rowInUnit, Fin.ext_iff]

/-- Settles O43: the only segment that can light an image bit is the lit one, and it does so at its place. -/
theorem oneSegmentLightsOneImageBit : Obligations.OneSegmentLightsOneImageBit := by
  unfold Obligations.OneSegmentLightsOneImageBit
  intro base y x p u k b g hone
  rw [Bool.eq_iff_iff, imageOf_getLsbD _ _ _ _ _ b.isLt, ← slotOf_rowInUnit_val]
  simp only [hone, decide_eq_true_iff]
  constructor
  · rintro ⟨r, x', p', ⟨hrow, rfl, rfl⟩, hbyte, hbit⟩
    obtain ⟨rfl, rfl⟩ := unitRow_eq_iff.mp hrow
    exact ⟨rfl, (congrArg Fin.val hbyte).symm, hbit.symm⟩
  · rintro ⟨hu, hk, hb⟩
    exact ⟨rowInUnit y, x, p, ⟨unitRow_eq_iff.mpr ⟨Fin.ext hu, rfl⟩, rfl, rfl⟩, Fin.ext hk.symm, hb.symm⟩

/-- Settles O44: a segment of the OR is lit when it is lit in one of the two grids. -/
theorem imagesAreLinear : Obligations.ImagesAreLinear := by
  unfold Obligations.ImagesAreLinear
  intro base g g' gor u hor k
  apply BitVec.eq_of_getLsbD_eq
  intro b hb
  rw [Bool.eq_iff_iff, BitVec.getLsbD_or, Bool.or_eq_true]
  simp only [imageOf_getLsbD _ _ _ _ _ hb, hor, segmentBit_or, Bool.or_eq_true, or_and_right, exists_or]

/-- Settles O45: only segments of the unit's rows map to its image. -/
theorem aUnitsImageDependsOnItsRowsOnly : Obligations.AUnitsImageDependsOnItsRowsOnly := by
  unfold Obligations.AUnitsImageDependsOnItsRowsOnly
  intro base g g' u hrows
  have hcell : ∀ r x, g[cellIx (unitRow u r) x] = g'[cellIx (unitRow u r) x] := by
    intro r x
    apply hrows
    simp only [unitRow]
    omega
  apply image_ext
  intro k b
  rw [Bool.eq_iff_iff]
  simp only [imageOf_getLsbD _ _ _ _ _ b.isLt, hcell]

/-! The bit count (R207) -/

/-- A count is the sum of its tests. -/
theorem countP_eq_sum_toNat {α : Type} (f : α → Bool) (l : List α) :
    l.countP f = (l.map fun a => (f a).toNat).sum := by
  induction l with
  | nil => rfl
  | cons a l ih => cases h : f a <;> simp [h, ih, Nat.add_comm]

theorem bitCount_eq_sum (v : Byte) : bitCount v = ∑ b : Fin 8, (v.getLsbD b.val).toNat := by
  rw [Fin.sum_univ_def, bitCount, countP_eq_sum_toNat]

/-- A bit of the grid: unit, row of the unit, column and segment. -/
abbrev CellBit := Fin 3 × Fin 2 × Coord × Fin 8

/-- The value of a bit of the grid. -/
def CellBit.value (g : GridBytes) : CellBit → Nat
  | (u, r, x, p) => (segmentBit g[cellIx (unitRow u r) x] p).toNat

/-- The image bit that a bit of the grid maps to: unit, byte and bit (R202). -/
def CellBit.place (base : SlotBase) : CellBit → Fin 3 × Fin 16 × Fin 8
  | (u, r, x, p) => (u, imageByte p (slotOf base r x), ⟨imageBit (slotOf base r x), imageBit_lt _⟩)

theorem place_injective (base : SlotBase) : Function.Injective (CellBit.place base) := by
  rintro ⟨u, r, x, p⟩ ⟨u', r', x', p'⟩ h
  simp only [CellBit.place, Prod.mk.injEq, Fin.mk.injEq] at h
  obtain ⟨rfl, rfl, rfl, rfl⟩ := cellBitsMapOneToOne base u u' r r' x x' p p' h
  rfl

/-- The serial index of the cell of a bit of the grid, and the bit's position in the cell (00_scope.md R10). -/
def CellBit.serial : CellBit → Fin 36 × Fin 8
  | (u, r, x, p) => (cellIx (unitRow u r) x, p.rev)

theorem serial_bijective : Function.Bijective CellBit.serial := by
  refine (Fintype.bijective_iff_injective_and_card _).mpr ⟨?_, by simp⟩
  rintro ⟨u, r, x, p⟩ ⟨u', r', x', p'⟩ h
  simp only [CellBit.serial, Prod.mk.injEq, cellIx_inj, Fin.rev_inj] at h
  obtain ⟨⟨hrow, rfl⟩, rfl⟩ := h
  obtain ⟨rfl, rfl⟩ := unitRow_inj hrow
  rfl

/-- The bit count of the grid, over its bits by unit, row, column and segment. -/
theorem gridBitCount_eq_sum (g : GridBytes) : gridBitCount g = ∑ c : CellBit, c.value g := by
  have hserial : ∀ c : CellBit, c.value g = ((g[c.serial.1]).getLsbD c.serial.2.val).toNat := by
    rintro ⟨u, r, x, p⟩
    simp only [CellBit.value, CellBit.serial, segmentBit, Fin.val_rev]
    congr 2
    omega
  rw [Fintype.sum_bijective _ serial_bijective _ (fun q => ((g[q.1]).getLsbD q.2.val).toNat) hserial,
    Fintype.sum_prod_type, gridBitCount, ← Fin.sum_univ_def]
  simp only [bitCount_eq_sum]

/-- The bit count of the images, over their bits by unit, byte and bit. -/
theorem imageBitCount_eq_sum (base : SlotBase) (g : GridBytes) :
    imageBitCount base g =
      ∑ q : Fin 3 × Fin 16 × Fin 8, (((imageOf base g q.1)[q.2.1]).getLsbD q.2.2.val).toNat := by
  simp only [imageBitCount, ← Fin.sum_univ_def, bitCount_eq_sum, Fintype.sum_prod_type]

/-- Settles O46: the places of the grid's bits hold those bits, and all the other image bits are 0. -/
theorem imagesKeepTheBitCount : Obligations.ImagesKeepTheBitCount := by
  unfold Obligations.ImagesKeepTheBitCount
  intro base g
  rw [gridBitCount_eq_sum, imageBitCount_eq_sum]
  refine (Fintype.sum_of_injective _ (place_injective base) _ _ ?_ ?_).symm
  · rintro ⟨u, k, b⟩ hfree
    rw [imageOf_getLsbD_of_no_segment base g u, Bool.toNat_false]
    rintro r x p ⟨hbyte, hbit⟩
    exact hfree ⟨(u, r, x, p), by simp only [CellBit.place, hbyte, hbit]⟩
  · rintro ⟨u, r, x, p⟩
    simp only [CellBit.value, CellBit.place, imageOf_getLsbD_of_segment]

end Sys2Proof.Machine
end

section
/-! PROOFS. Faults (spec/60_exceptions.md R230 to R242): what the port settles when a word arrives, in the order of
R238, and what each cause needs. A fault writes its cause and nothing else (R239). -/

namespace Sys2Proof.Machine

/-! The causes of a decoded command -/

/-- NOT_INITIALIZED has no cause but a mutator before INIT (R234). -/
theorem firstCause_eq_notInitialized_iff {i : Instr} {s : State} :
    firstCause i s = .notInitialized ↔ isMutator i = true ∧ s.init = false := by
  constructor
  · intro h
    by_contra hready
    unfold firstCause at h
    rw [if_neg hready] at h
    split_ifs at h
  · rintro ⟨hm, hinit⟩
    exact firstCause_of_not_init hm hinit

/-- The cause of a command in an unfaulted block is its first cause, whether it faults or not. -/
theorem exists_exec_faultCause (i : Instr) {s : State} (hf : s.faultCause = .none) :
    ∃ t, exec i s = .next t ∧ t.faultCause = firstCause i s := by
  by_cases hc : firstCause i s = .none
  · exact ⟨_, exec_of_no_cause hc, by simp [hc, hf]⟩
  · exact ⟨_, exec_of_cause hc rfl, rfl⟩

/-- A level that BRIGHT rejects is no fault: it is logged and ignored (R238, 43_control.md R184). -/
theorem exec_bright_of_rejected {level : Byte} {s : State} (hc : firstCause (.bright level) s = .none)
    (hlevel : 16 ≤ level.toNat) :
    exec (.bright level) s =
      .next { s with trace := s.trace ++ [.logBrightnessRejected level], pc := s.pc + 1 } := by
  obtain ⟨-, hmutator, -⟩ := firstCause_eq_none.mp hc
  rw [exec_eq_execWith]
  exact execWith_bright_of_rejected Config.device (hmutator rfl) hlevel

/-- A command that reads the whole grid faults on one undefined cell (R233). -/
theorem exec_of_undefined {i : Instr} {y x : Coord} {s : State} (hr : readsGrid i = true)
    (hi : isMutator i = true → s.init = true) (hundef : s.isDefined y x = false) :
    exec i s = .next { s with faultCause := .undefinedCell } :=
  exec_of_cause (by decide)
    ((firstCause_of_readsGrid hr hi).trans (if_neg ((not_allDefined_iff s).mpr ⟨y, x, hundef⟩)))

/-! The steps that fault -/

/-- A faulted block takes no word (R241). -/
theorem step_of_faulted {s : State} (hr : s.resetIn = none) (hf : s.faultCause ≠ .none) :
    step s = .fault (.halted s.faultCause) := by
  simp [step, portStep, hr, (faulted_iff s).mpr hf]

/-- A step that leaves the block faulted has raised a cause that can be raised: neither none nor the code 7 of R236. -/
theorem step_raises {s t : State} (h : step s = .next t) (hf : t.faultCause ≠ .none) :
    ∃ f, f ≠ .none ∧ f ≠ .digitSlotRange ∧ t = s.raise f := by
  rcases step_cases h with ⟨ws, -, rfl⟩ | ⟨-, hs, w, -, hword⟩
  · exact absurd rfl hf
  · rcases hword with ⟨-, rfl⟩ | ⟨-, -, rfl⟩ | ⟨-, i, -, hi⟩
    · exact absurd (by simpa using hs) hf
    · exact ⟨.illegalCommand, by decide, by decide, rfl⟩
    · rcases exec_cases hi with ⟨hc, rfl⟩ | ⟨-, rfl⟩
      · exact ⟨_, hc, firstCause_ne_digitSlotRange i s, rfl⟩
      · exact absurd (by simpa using hs) hf

/-- The causes that can be raised have the codes 1 to 5 (R230, R240). -/
theorem faultCause_code_range {f : FaultCause} (hnone : f ≠ .none) (hslot : f ≠ .digitSlotRange) :
    1 ≤ f.code.toNat ∧ f.code.toNat ≤ 5 := by
  cases f with
  | none => exact absurd rfl hnone
  | digitSlotRange => exact absurd rfl hslot
  | _ => decide

/-! The obligations -/

/-- Settles O12: each case of the port is one equation of the step, and the first cause decides that of a command. -/
theorem portSettlesInPriorityOrder : Obligations.PortSettlesInPriorityOrder := by
  unfold Obligations.PortSettlesInPriorityOrder
  refine fun s hr => ⟨step_of_faulted hr, fun hf w hw => ⟨step_of_payload hr hf hw, ?_, ?_⟩⟩
  · intro hp hill
    exact (step_eq_raise_illegalCommand_iff ⟨hr, hf, hp⟩ hw).mpr hill
  · intro hp i hi
    obtain ⟨t, ht, hcause⟩ := exists_exec_faultCause i hf
    refine ⟨t, (step_of_command hr hf hw hp hi).trans ht, hcause, fun hc => ?_, ?_⟩
    · exact Host.Outcome.next.inj (ht.symm.trans (exec_of_cause hc rfl))
    · rintro hc level rfl hlevel
      exact Host.Outcome.next.inj (ht.symm.trans (exec_bright_of_rejected hc hlevel))

/-- Settles O20: the only steps into the faulted state are those that raise a cause. -/
theorem faultsArePrecise : Obligations.FaultsArePrecise := by
  unfold Obligations.FaultsArePrecise
  intro s t _ h hf
  obtain ⟨f, hnone, hslot, rfl⟩ := step_raises h hf
  exact ⟨rfl, faultCause_code_range hnone hslot⟩

/-- Settles O23: the cell readers by the tag of their cell, the five whole-grid readers by any one tag. -/
theorem undefinedReadsFault : Obligations.UndefinedReadsFault := by
  unfold Obligations.UndefinedReadsFault
  constructor
  · intro cy cx x y pat s hinit hx hy hundef
    obtain ⟨horp, -⟩ := orpSetsBitsOfOneCell
    obtain ⟨handp, -⟩ := andpClearsBitsOfOneCell
    exact ⟨(horp cy cx x y pat s hinit hx hy).2 hundef, (handp cy cx x y pat s hinit hx hy).2 hundef⟩
  · intro y x s hundef
    refine ⟨exec_of_undefined rfl (fun h => absurd h (by decide)) hundef, fun hinit d => ⟨?_, ?_, ?_, ?_⟩⟩
    all_goals exact exec_of_undefined rfl (fun _ => hinit) hundef

/-- Settles O10: the case of a decoded header in the equations of a step. -/
theorem readyStepRunsTheDecodedCommand : Obligations.ReadyStepRunsTheDecodedCommand := by
  unfold Obligations.ReadyStepRunsTheDecodedCommand
  rintro s w i ⟨hr, hf, hp⟩ hw hi
  exact step_of_command hr hf hw hp hi

/-- Settles O19: of the steps that answer a next state, reset alone starts from a faulted block. -/
theorem onlyResetLeavesTheFaultedState : Obligations.OnlyResetLeavesTheFaultedState := by
  unfold Obligations.OnlyResetLeavesTheFaultedState
  refine fun s hf => ⟨fun hr => step_of_faulted hr hf, fun t h => ?_⟩
  rcases step_cases h with hreset | ⟨-, hnone, -⟩
  · exact hreset
  · exact absurd hnone hf

/-- Settles O21: the eleven mutators are those of `isMutator`, which alone have this cause. -/
theorem mutatorsNeedInit : Obligations.MutatorsNeedInit := by
  unfold Obligations.MutatorsNeedInit
  intro i s hinit
  constructor
  · intro hi
    refine exec_of_not_init ?_ hinit
    rcases hi with rfl | rfl | rfl | rfl | rfl | ⟨l, rfl⟩ | ⟨x, y, p, rfl | rfl | rfl⟩ | ⟨d, rfl | rfl⟩ <;> rfl
  · intro hi
    have hm : isMutator i = false := by rcases hi with rfl | rfl <;> rfl
    obtain ⟨t, ht⟩ := exec_answers_next i s
    refine ⟨t, ht, fun hs => ?_⟩
    rcases exec_cases ht with ⟨-, rfl⟩ | ⟨-, rfl⟩
    · intro hc
      obtain ⟨hmutator, -⟩ := firstCause_eq_notInitialized_iff.mp hc
      exact absurd hmutator (Bool.eq_false_iff.mp hm)
    · simpa using hs

/-- Settles O22: the coordinate check comes right after the initialisation check in all three cell commands. -/
theorem outOfRangeCoordinatesFault : Obligations.OutOfRangeCoordinatesFault := by
  unfold Obligations.OutOfRangeCoordinatesFault
  intro x y pat s hinit hbad
  exact ⟨exec_of_out_of_range rfl hinit hbad, exec_of_out_of_range rfl hinit hbad, exec_of_out_of_range rfl hinit hbad⟩

end Sys2Proof.Machine
end

section
/-! PROOFS. The interleaving of two hosts (spec/60_exceptions.md R252, 70_reset_and_hazards.md R277): the schedules give
exactly the shuffles, and the block takes the whole commands of any sequence on its port one by one (20_memory.md
R62). -/

namespace Sys2Proof.Machine

/-! Schedules and shuffles -/

section Schedule

variable {α : Type}

@[simp] theorem interleave_nil_left (sched : List HostAgent) (bs : List α) : interleave sched [] bs = bs := by
  simp [interleave]

@[simp] theorem interleave_nil_right (sched : List HostAgent) (as : List α) : interleave sched as [] = as := by
  cases as <;> simp [interleave]

@[simp] theorem interleave_unscheduled (as bs : List α) : interleave [] as bs = as ++ bs := by
  cases as <;> cases bs <;> simp [interleave]

@[simp] theorem interleave_mainLoop (sched : List HostAgent) (a : α) (as bs : List α) :
    interleave (.mainLoop :: sched) (a :: as) bs = a :: interleave sched as bs := by
  cases bs <;> simp [interleave]

@[simp] theorem interleave_receiver (sched : List HostAgent) (b : α) (as bs : List α) :
    interleave (.receiver :: sched) as (b :: bs) = b :: interleave sched as bs := by
  cases as <;> simp [interleave]

theorem shuffle_append (as bs : List α) : Shuffle as bs (as ++ bs) := by
  induction as with
  | cons a as ih => exact .takeLeft ih
  | nil =>
    induction bs with
    | nil => exact .done
    | cons b bs ih => exact .takeRight ih

/-- What a schedule gives is a shuffle. -/
theorem shuffle_interleave (sched : List HostAgent) (as bs : List α) : Shuffle as bs (interleave sched as bs) := by
  induction sched generalizing as bs with
  | nil => simpa using shuffle_append as bs
  | cons host sched ih =>
    cases as with
    | nil => simpa using shuffle_append [] bs
    | cons a as =>
      cases bs with
      | nil => simpa using shuffle_append (a :: as) []
      | cons b bs =>
        cases host with
        | mainLoop => simpa using (ih as (b :: bs)).takeLeft
        | receiver => simpa using (ih (a :: as) bs).takeRight

/-- Every shuffle is what its own choices, taken as a schedule, give. -/
theorem Shuffle.exists_schedule {as bs cs : List α} (h : Shuffle as bs cs) : ∃ sched, interleave sched as bs = cs := by
  induction h with
  | done => exact ⟨[], rfl⟩
  | takeLeft _ ih =>
    obtain ⟨sched, rfl⟩ := ih
    exact ⟨.mainLoop :: sched, interleave_mainLoop ..⟩
  | takeRight _ ih =>
    obtain ⟨sched, rfl⟩ := ih
    exact ⟨.receiver :: sched, interleave_receiver ..⟩

theorem shuffle_iff_exists_schedule {as bs cs : List α} : Shuffle as bs cs ↔ ∃ sched, interleave sched as bs = cs :=
  ⟨Shuffle.exists_schedule, fun ⟨sched, h⟩ => h ▸ shuffle_interleave sched as bs⟩

theorem Shuffle.perm {as bs cs : List α} (h : Shuffle as bs cs) : cs.Perm (as ++ bs) := by
  induction h with
  | done => exact .nil
  | takeLeft _ ih => exact ih.cons _
  | takeRight _ ih => exact (ih.cons _).trans List.perm_middle.symm

theorem Shuffle.sublist_left {as bs cs : List α} (h : Shuffle as bs cs) : as.Sublist cs := by
  induction h with
  | done => exact .slnil
  | takeLeft _ ih => exact ih.cons_cons _
  | takeRight _ ih => exact ih.cons _

theorem Shuffle.sublist_right {as bs cs : List α} (h : Shuffle as bs cs) : bs.Sublist cs := by
  induction h with
  | done => exact .slnil
  | takeLeft _ ih => exact ih.cons _
  | takeRight _ ih => exact ih.cons_cons _

end Schedule

/-- A shuffle of whole commands holds whole commands. -/
theorem Shuffle.dutyKept {as bs cs : List HostCommand} (h : Shuffle as bs cs) (has : dutyKept as = true)
    (hbs : dutyKept bs = true) : dutyKept cs = true := by
  have hall : (as ++ bs).all HostCommand.whole = true := by
    rw [List.all_append, Bool.and_eq_true]
    exact ⟨has, hbs⟩
  exact h.perm.all_eq.trans hall

/-! A sequence of whole commands on the port -/

/-- Words on the port at `pc`, in two parts. -/
theorem prefix_drop_of_append {α : Type} {us vs l : List α} {n : Nat} (h : us ++ vs <+: l.drop n) :
    us <+: l.drop n ∧ vs <+: l.drop (n + us.length) :=
  ⟨(List.prefix_append us vs).trans h, by simpa using h.drop us.length⟩

/-- A whole command that passes its checks is taken from the port as it is taken at once (R252). -/
theorem runSteps_words_eq_takeCommand {s : State} {h : HostCommand} (hs : s.Ready) (hwhole : h.whole = true)
    (hc : firstCause h.instr s = .none) (hws : h.words <+: s.stream.drop s.pc) :
    runSteps h.words.length s = takeCommand h s := by
  have ⟨_, hf, _⟩ := hs
  rw [runSteps_words hs hwhole hc hws, takeCommand_spec h hf, if_pos hc]

theorem takeCommands_cons_of_taken {s t : State} {h : HostCommand} (ht : takeCommand h s = .next t)
    (hf : t.faultCause = .none) (hs : List HostCommand) : takeCommands (h :: hs) s = takeCommands hs t := by
  simp [takeCommands, ht, hf]

theorem takeCommands_cons_of_cause {s : State} {h : HostCommand} (hf : s.faultCause = .none)
    (hc : firstCause h.instr s ≠ .none) (hs : List HostCommand) :
    takeCommands (h :: hs) s = .next (s.raise (firstCause h.instr s)) := by
  simp [takeCommands, takeCommand_spec h hf, hc]

/-- The whole commands on the port of a ready block are taken one by one, up to the first that faults (R62). -/
theorem runSteps_hostWords {cs : List HostCommand} {s : State} (hs : s.Ready) (hwhole : dutyKept cs = true)
    (hws : hostWords cs <+: s.stream.drop s.pc) :
    ∃ k t, k ≤ (hostWords cs).length ∧ runSteps k s = .next t ∧ takeCommands cs s = .next t ∧
      (t.faultCause = .none → k = (hostWords cs).length ∧ t.Ready ∧ t.pc = s.pc + k) := by
  induction cs generalizing s with
  | nil => exact ⟨0, s, le_rfl, rfl, rfl, fun _ => ⟨rfl, hs, rfl⟩⟩
  | cons h cs ih =>
    rw [dutyKept_cons, Bool.and_eq_true] at hwhole
    obtain ⟨hwhole, hrest⟩ := hwhole
    rw [hostWords_cons] at hws ⊢
    obtain ⟨hhead, htail⟩ := prefix_drop_of_append hws
    by_cases hc : firstCause h.instr s = .none
    · obtain ⟨u, hrun, hu, hstream, hpc⟩ := ready_after_words hs hwhole hc hhead
      have htake := (runSteps_words_eq_takeCommand hs hwhole hc hhead).symm.trans hrun
      rw [← hstream, ← hpc] at htail
      obtain ⟨k, t, hk, hruns, htakes, hdone⟩ := ih hu hrest htail
      refine ⟨h.words.length + k, t, ?_, ?_, ?_, fun hf => ?_⟩
      · rw [List.length_append]; omega
      · exact (runSteps_add k hrun).trans hruns
      · exact (takeCommands_cons_of_taken htake hu.2.1 cs).trans htakes
      · obtain ⟨hk, ht, hpct⟩ := hdone hf
        exact ⟨by rw [List.length_append, hk], ht, by rw [hpct, hpc, Nat.add_assoc]⟩
    · have ⟨_, hf, _⟩ := hs
      refine ⟨1, _, ?_, runSteps_of_firstCause hs hc hhead, takeCommands_cons_of_cause hf hc cs, fun hnone => ?_⟩
      · rw [List.length_append, words_length]; omega
      · exact absurd hnone hc

/-- Settles O53: a schedule gives a shuffle, a shuffle of whole commands holds whole commands, and the port takes them
by induction on their sequence. -/
theorem interleavingKeepsWholeCommands : Obligations.InterleavingKeepsWholeCommands := by
  unfold Obligations.InterleavingKeepsWholeCommands
  refine ⟨fun α sched as bs => ?_, fun α as bs cs => shuffle_iff_exists_schedule, ?_⟩
  · have hshuffle := shuffle_interleave sched as bs
    exact ⟨hshuffle.perm, hshuffle.sublist_left, hshuffle.sublist_right⟩
  · intro as bs cs s has hbs hshuffle hs hws
    have hwhole := hshuffle.dutyKept has hbs
    exact ⟨hwhole, runSteps_hostWords hs hwhole hws⟩

end Sys2Proof.Machine
end

section
/-! PROOFS. The steps that no word decides (spec/70_reset_and_hazards.md R270, R276): an asserted reset acts in every
state, and outside reset there is no step exactly at the three ends of a run. -/

namespace Sys2Proof.Machine

theorem portStep_of_reset (run : Instr → State → Result) (r : State) {s : State} {ws : List Word}
    (h : s.resetIn = some ws) : portStep run r s = .next (State.afterReset r ws) := by
  simp [portStep, h]

theorem step_of_reset {s : State} {ws : List Word} (h : s.resetIn = some ws) :
    step s = .next (State.afterReset State.reset ws) :=
  portStep_of_reset exec State.reset h

theorem exhausted_iff {s : State} : s.Exhausted ↔ s.nextWord = none := Iff.rfl

/-- An unfaulted block that has taken every word has no step (R276). -/
theorem step_of_exhausted {s : State} (hr : s.resetIn = none) (hf : s.faultCause = .none)
    (hw : s.nextWord = none) : step s = .fault (endOfStream s) := by
  simp [step, portStep, hr, (faulted_eq_false s).mpr hf, hw]

/-- An unfaulted block with a word on the port has a step, whatever the word is. -/
theorem exists_step_of_word {s : State} {w : Word} (hr : s.resetIn = none) (hf : s.faultCause = .none)
    (hw : s.nextWord = some w) : ∃ t, step s = .next t := by
  cases hp : s.pendActive with
  | true => exact ⟨_, step_of_payload hr hf hw hp⟩
  | false =>
    cases hd : decode w with
    | error e => exact ⟨_, step_of_illegal hr hf hw hp hd⟩
    | ok i => rw [step_of_command hr hf hw hp hd]; exact exec_answers_next i s

/-- Settles O15: the port looks at the reset input first, whatever the meanings and the reset state of the machine. -/
theorem resetInputActsInEveryState : Obligations.ResetInputActsInEveryState := by
  unfold Obligations.ResetInputActsInEveryState
  intro s ws
  exact ⟨step_of_reset (assertReset_resetIn s ws), fun c => portStep_of_reset _ _ (assertReset_resetIn s ws),
    rfl, rfl, rfl, rfl, rfl⟩

/-- Settles O13: a faulted block halts, an unfaulted one without a next word is at the end of its stream, and any word
gives a step. -/
theorem stepStopsExactlyAtTheEndOfARun : Obligations.StepStopsExactlyAtTheEndOfARun := by
  unfold Obligations.StepStopsExactlyAtTheEndOfARun
  intro s hr
  simp only [State.IsFinal, State.IsIncomplete, State.IsFaulted, exhausted_iff]
  by_cases hf : s.faultCause = .none
  · cases hw : s.nextWord with
    | none =>
      rw [step_of_exhausted hr hf hw]
      cases hp : s.pendActive <;> simp [endOfStream, hp, hf, eq_comm (a := Fault.runComplete),
        eq_comm (a := Fault.runIncomplete)]
    | some w =>
      obtain ⟨t, ht⟩ := exists_step_of_word hr hf hw
      simp [ht, hf]
  · simp [step_of_faulted hr hf, hf, eq_comm (a := Fault.halted s.faultCause)]

end Sys2Proof.Machine
end

section
/-! PROOFS. What the spec leaves unspecified cannot be observed (spec/93_implementation_defined.md I1, I2, I3). The
operations of the block keep the agreement of two states (`State.Agree`), since each command reads only cells that its
checks have found defined, and a payload is read only when all nine of its words have been received. -/

namespace Sys2Proof.Machine

theorem State.Agree.refl (s : State) : s.Agree s := by
  constructor <;> simp

/-- A cell command that passes its checks reads the cell it names, which is defined then. -/
theorem namedCell_isDefined {x y : Nibble} {s : State} (hb : (6 ≤ x.toNat || 6 ≤ y.toNat) = false)
    (hr : ∀ y' x' : Coord, (x.toNat == x'.val && y.toNat == y'.val) = true → s.isDefined y' x' = true) :
    s.isDefined (namedCell x y).1 (namedCell x y).2 = true := by
  cases hc : cellOf x y with
  | none => exact absurd (coordBad_iff.mpr hc) (Bool.eq_false_iff.mp hb)
  | some p =>
    obtain ⟨hx, hy⟩ := cellOf_eq_some.mp hc
    simp only [namedCell, hc, Option.getD_some]
    exact hr p.1 p.2 (by simp [hx, hy])

/-- A command that reads the whole grid and passes its checks finds every cell defined. -/
theorem allDefined_of_firstCause_eq_none {i : Instr} {s : State} (hr : readsGrid i = true)
    (hc : firstCause i s = .none) : s.AllDefined := by
  obtain ⟨-, hmutator, -⟩ := firstCause_eq_none.mp hc
  rw [firstCause_of_readsGrid hr hmutator] at hc
  by_contra hundef
  rw [if_neg hundef] at hc
  cases hc

/-- The ninth word of a payload completes the load. -/
theorem takePayload_of_last_eq_loaded {s : State} (w : Word) (h : s.pendCount.val = 8) :
    takePayload w s = s.loaded (s.storePayload w).pendWords (s.pc + 1) := by
  rw [takePayload_of_last w h, loadPayload_eq_loaded]
  rfl

section Agree

variable {s t : State} (h : s.Agree t)

include h

/-! What agreeing states have in common -/

theorem State.Agree.nextWord_eq : s.nextWord = t.nextWord := by
  rw [State.nextWord, State.nextWord, h.stream, h.pc]

theorem State.Agree.endOfStream_eq : endOfStream s = endOfStream t := by
  rw [endOfStream, endOfStream, h.pendActive]

/-- The checks of a command read INIT and the tags alone. -/
theorem State.Agree.firstCause_eq (i : Instr) : firstCause i s = firstCause i t := by
  have hdefined : s.isDefined = t.isDefined := by funext y x; rw [State.isDefined, State.isDefined, h.defined]
  rw [firstCause, firstCause, h.init, hdefined]

theorem State.Agree.cell_eq {y x : Coord} (hd : s.isDefined y x = true) : s.cell y x = t.cell y x :=
  h.cells _ hd

theorem State.Agree.cells_eq (hd : s.AllDefined) : s.cells = t.cells :=
  gridBytes_ext fun i => h.cells i (hd i)

theorem State.Agree.brightness_eq : s.brightness = t.brightness := by
  unfold State.brightness
  rw [← h.brightDef]
  split_ifs with hb
  · rw [h.bright hb]
  · rfl

theorem State.Agree.observe_eq : s.observe = t.observe := by
  have hcell : ∀ i : Fin 36, (if s.defined[i] then some s.cells[i] else none) =
      if t.defined[i] then some t.cells[i] else none := by
    intro i
    rw [← h.defined]
    split_ifs with hd
    · rw [h.cells i hd]
    · rfl
  simp only [State.observe, hcell, h.trace, h.init, h.brightness_eq]

/-! The operations over the state -/

theorem State.Agree.raise (f : FaultCause) : (s.raise f).Agree (t.raise f) :=
  { h with faultCause := rfl }

theorem State.Agree.advance : s.advance.Agree t.advance :=
  { h with pc := congrArg (· + 1) h.pc }

theorem State.Agree.emit (rs : List Record) : (s.emit rs).Agree (t.emit rs) :=
  { h with trace := congrArg (· ++ rs) h.trace }

theorem State.Agree.bindBus : { s with init := true }.Agree { t with init := true } :=
  { h with init := rfl }

theorem State.Agree.acceptLevel (c : Config) (level : Nibble) : (s.acceptLevel c level).Agree (t.acceptLevel c level) :=
  { h with
    bright := fun _ => rfl
    brightDef := rfl
    trace := congrArg (· ++ brightnessRecords c level) h.trace }

/-- A written cell agrees, and any other cell agrees as before. -/
theorem State.Agree.setCell (y x : Coord) (v : Byte) : (s.setCell y x v).Agree (t.setCell y x v) :=
  { h with
    defined := congrArg (·.set (cellIx y x).val true) h.defined
    cells := by
      intro i hi
      by_cases hix : (cellIx y x).val = i.val
      · simp [hix]
      · simp only [setCell_cells, setCell_defined, Fin.getElem_fin, Vector.getElem_set_ne _ _ hix] at hi ⊢
        exact h.cells i hi }

/-- Written in every cell alike, the two grids are the same. -/
theorem State.Agree.withGrid (cells : GridBytes) (defined : Vector Bool 36) :
    { s with cells := cells, defined := defined }.Agree { t with cells := cells, defined := defined } :=
  { h with
    defined := rfl
    cells := fun _ _ => rfl }

theorem State.Agree.setGrid (f : Coord → Coord → Byte) : (s.setGrid f).Agree (t.setGrid f) := by
  simp only [State.setGrid]
  exact h.withGrid _ _

theorem State.Agree.loaded (ws : Vector Word 9) (pc : Nat) : (s.loaded ws pc).Agree (t.loaded ws pc) := by
  simp only [State.loaded]
  exact { h.withGrid _ _ with
    pendActive := rfl
    pendCount := rfl
    pendWords := fun _ _ _ => rfl
    pc := rfl }

/-! The commands -/

theorem State.Agree.cellEffect (x y : Nibble) {f : Byte → Byte}
    (hf : f (s.cell (namedCell x y).1 (namedCell x y).2) = f (t.cell (namedCell x y).1 (namedCell x y).2)) :
    (cellEffect x y f s).Agree (cellEffect x y f t) := by
  unfold Machine.cellEffect
  rw [hf]
  exact (h.setCell _ _ _).advance

theorem State.Agree.cellEffect_of_defined (x y : Nibble) (f : Byte → Byte)
    (hd : s.isDefined (namedCell x y).1 (namedCell x y).2 = true) :
    (Machine.cellEffect x y f s).Agree (Machine.cellEffect x y f t) :=
  h.cellEffect x y (congrArg f (h.cell_eq hd))

/-- A command that passes its checks reads only cells whose tags are 1, in which the two states agree. -/
theorem State.Agree.commandEffect (c : Config) {i : Instr} (hc : firstCause i s = .none) :
    (commandEffect c i s).Agree (commandEffect c i t) := by
  obtain ⟨-, -, hcoord, hreads⟩ := firstCause_eq_none.mp hc
  have hcells : readsGrid i = true → s.cells = t.cells :=
    fun hr => h.cells_eq (allDefined_of_firstCause_eq_none hr hc)
  cases i with
  | init => exact (h.bindBus.emit _).advance
  | setp x y pat => exact h.cellEffect x y (f := fun _ => pat) rfl
  | orp x y pat => exact h.cellEffect_of_defined x y (fun v => v ||| pat) (namedCell_isDefined hcoord hreads)
  | andp x y pat => exact h.cellEffect_of_defined x y (fun v => v &&& ~~~pat) (namedCell_isDefined hcoord hreads)
  | clr | fill => exact (h.setGrid _).advance
  | rev =>
    have hcell : s.cell = t.cell := by funext y x; rw [State.cell, State.cell, hcells rfl]
    simp only [Machine.commandEffect, hcell]
    exact (h.setGrid _).advance
  | setall =>
    exact State.Agree.advance { h with
      pendActive := rfl
      pendCount := rfl
      pendWords := fun _ j hj => absurd hj (Fin.not_lt_zero j) }
  | getall =>
    simp only [Machine.commandEffect, gridBytes_eq_cells, hcells rfl]
    exact (h.emit _).advance
  | metaNumber d | metaReverse d =>
    simp only [Machine.commandEffect, hcells rfl]
    exact (h.setGrid _).advance
  | bright level =>
    simp only [Machine.commandEffect]
    split_ifs
    · exact (h.acceptLevel _ _).advance
    · exact (h.emit _).advance
  | update =>
    simp only [Machine.commandEffect, hcells rfl]
    exact (h.emit _).advance

theorem State.Agree.exec (i : Instr) : sameOutcome (exec i s) (exec i t) := by
  rw [exec_spec, exec_spec, ← h.firstCause_eq]
  split_ifs with hc
  · exact h.commandEffect _ hc
  · exact h.raise _

/-! The payload -/

/-- The words received agree when one more has been stored. -/
theorem State.Agree.storePayload_getElem (w : Word) (hp : s.pendActive = true) {j : Fin 9} (hj : j ≤ s.pendCount) :
    (s.storePayload w).pendWords[j] = (t.storePayload w).pendWords[j] := by
  simp only [storePayload_pendWords, ← h.pendCount, Fin.getElem_fin, Vector.getElem_set]
  split_ifs with hlast
  · rfl
  · exact h.pendWords hp j (by omega)

/-- The ninth word is the last of the payload, and any other is one more received. -/
theorem State.Agree.takePayload (w : Word) (hp : s.pendActive = true) :
    (takePayload w s).Agree (takePayload w t) := by
  by_cases hlast : s.pendCount.val = 8
  · have hwords : (s.storePayload w).pendWords = (t.storePayload w).pendWords :=
      Vector.ext fun j hj => h.storePayload_getElem w hp (j := ⟨j, hj⟩) (Fin.le_def.mpr (by rw [hlast]; omega))
    rw [takePayload_of_last_eq_loaded w hlast, takePayload_of_last_eq_loaded w (h.pendCount ▸ hlast), hwords, h.pc]
    exact h.loaded _ _
  · rw [takePayload_of_not_last w hlast, takePayload_of_not_last w (h.pendCount ▸ hlast)]
    exact { h.advance with
      pendCount := by simp [h.pendCount]
      pendWords := fun _ j hj => h.storePayload_getElem w hp (Fin.le_def.mpr (Nat.le_of_lt_succ hj)) }

/-! The step -/

/-- Whether a word is payload or header, and what it decodes to, is the same for both states. -/
theorem State.Agree.settleWord (w : Word) :
    sameOutcome (settleWord Machine.exec w s) (settleWord Machine.exec w t) := by
  unfold Machine.settleWord settleHeader
  rw [← h.pendActive]
  split_ifs with hp
  · exact h.takePayload w hp
  · cases decode w with
    | error e => exact h.raise _
    | ok i => exact h.exec i

theorem State.Agree.step : sameOutcome (step s) (step t) := by
  have hr' := h.resetIn
  have hf' := h.faultCause
  have hw' := h.nextWord_eq
  cases hr : s.resetIn with
  | some ws =>
    rw [step_of_reset hr, step_of_reset (hr' ▸ hr)]
    exact .refl _
  | none =>
    by_cases hf : s.faultCause = .none
    · cases hw : s.nextWord with
      | none =>
        rw [step_of_exhausted hr hf hw, step_of_exhausted (hr' ▸ hr) (hf' ▸ hf) (hw' ▸ hw)]
        exact h.endOfStream_eq
      | some w =>
        rw [step_of_word hr hf hw, step_of_word (hr' ▸ hr) (hf' ▸ hf) (hw' ▸ hw)]
        exact h.settleWord w
    · rw [step_of_faulted hr hf, step_of_faulted (hr' ▸ hr) (hf' ▸ hf)]
      exact congrArg Fault.halted hf'

end Agree

/-- Settles O52: the observation and every case of a step look only at what agreeing states have in common. -/
theorem unspecifiedContentsAreUnobservable : Obligations.UnspecifiedContentsAreUnobservable := by
  unfold Obligations.UnspecifiedContentsAreUnobservable
  exact fun s t h => ⟨h.observe_eq, h.step⟩

end Sys2Proof.Machine
end

section
/-! PROOFS. The hosts (spec/70_reset_and_hazards.md R277). Words written behind those on the port change no step that is
already possible, and a host inside a command is the only one that has a move (60_exceptions.md R252). -/

namespace Sys2Proof.Machine

/-! Words behind those on the port -/

section AppendWords

variable (s : State) (ws : List Word)

theorem appendWords_append (ws' : List Word) : (s.appendWords ws).appendWords ws' = s.appendWords (ws ++ ws') := by
  simp [State.appendWords]

theorem appendWords_nextWord {w : Word} (hw : s.nextWord = some w) : (s.appendWords ws).nextWord = some w := by
  rw [State.nextWord, appendWords_stream, appendWords_pc, List.getElem?_append_left (pc_lt_of_nextWord hw)]
  exact hw

theorem takePayload_appendWords (w : Word) :
    takePayload w (s.appendWords ws) = (takePayload w s).appendWords ws := by
  by_cases hlast : s.pendCount.val = 8
  · rw [takePayload_of_last_eq_loaded w hlast, takePayload_of_last_eq_loaded (s := s.appendWords ws) w hlast]
    simp only [State.loaded, State.appendWords, State.storePayload]
  · rw [takePayload_of_not_last w hlast, takePayload_of_not_last (s := s.appendWords ws) w hlast]
    rfl

theorem firstCause_appendWords (i : Instr) : firstCause i (s.appendWords ws) = firstCause i s := rfl

/-- No command reads the port. -/
theorem commandEffect_appendWords (c : Config) (i : Instr) :
    commandEffect c i (s.appendWords ws) = (commandEffect c i s).appendWords ws := by
  cases i with
  | bright level =>
    by_cases h : levelLegal level = true <;>
      simp [commandEffect, h, State.acceptLevel, State.advance, State.emit, State.appendWords]
  | _ =>
    simp [commandEffect, cellEffect, State.setGrid, State.setCell, State.advance, State.emit, State.cell,
      State.appendWords]

theorem exec_appendWords {i : Instr} {s t : State} (h : exec i s = .next t) :
    exec i (s.appendWords ws) = .next (t.appendWords ws) := by
  rcases exec_cases h with ⟨hc, rfl⟩ | ⟨hc, rfl⟩
  · rw [exec_spec, firstCause_appendWords, if_neg hc]
    rfl
  · rw [exec_spec, firstCause_appendWords, if_pos hc, commandEffect_appendWords]

/-- A step that the words on the port allow is the same with more words behind them. -/
theorem step_appendWords {s t : State} (hr : s.resetIn = none) (h : step s = .next t) :
    step (s.appendWords ws) = .next (t.appendWords ws) := by
  rcases step_cases h with ⟨presented, hreset, -⟩ | ⟨-, hf, w, hw, hword⟩
  · simp [hr] at hreset
  · have hw' := appendWords_nextWord s ws hw
    rcases hword with ⟨hp, rfl⟩ | ⟨hp, ⟨e, he⟩, rfl⟩ | ⟨hp, i, hi, hexec⟩
    · rw [step_of_payload (s := s.appendWords ws) hr hf hw' hp, takePayload_appendWords]
    · rw [step_of_illegal (s := s.appendWords ws) hr hf hw' hp he]
      rfl
    · rw [step_of_command (s := s.appendWords ws) hr hf hw' hp hi, exec_appendWords ws hexec]

end AppendWords

/-- Settles O55: outside reset a host's words go behind those on the port, and a step stays outside reset. -/
theorem hostWritesDoNotDisturbAStep : Obligations.HostWritesDoNotDisturbAStep := by
  unfold Obligations.HostWritesDoNotDisturbAStep
  constructor
  · intro s t ws hr h
    obtain ⟨-, hr', -⟩ := pcCountsTheWordsTaken s t hr h
    exact ⟨_, _, hostWrite_of_running hr ws, rfl, hostWrite_of_running hr' ws, step_appendWords ws hr h⟩
  · intro s ws hr
    obtain ⟨presented, hreset⟩ := Option.ne_none_iff_exists'.mp hr
    exact hostWrite_of_reset hreset ws

/-! One word of a host -/

section Write

variable {p : SharedPort} {host : HostAgent}

theorem write_of_reset (hr : p.block.resetIn ≠ none) (w : Word) : p.write host w = none := by
  obtain ⟨presented, hreset⟩ := Option.ne_none_iff_exists'.mp hr
  simp [SharedPort.write, hostWrite_of_reset hreset]

/-- The word of a host that starts outside a command is a header. -/
theorem write_header (hr : p.block.resetIn = none) (ho : p.owed = 0) (w : Word) :
    p.write host w = some ⟨p.block.appendWords [w], some host, wordsOwed w⟩ := by
  simp [SharedPort.write, hostWrite_of_running hr, ho]

/-- The word of a host inside its own command is one of those that the command lacks. -/
theorem write_payload (hr : p.block.resetIn = none) (ho : p.owed ≠ 0) (hown : p.writer = some host) (w : Word) :
    p.write host w = some ⟨p.block.appendWords [w], some host, p.owed - 1⟩ := by
  simp [SharedPort.write, hostWrite_of_running hr, ho, hown]

/-- There is no word inside another host's command. -/
theorem write_of_other (ho : p.owed ≠ 0) (hother : p.writer ≠ some host) (w : Word) : p.write host w = none := by
  by_cases hr : p.block.resetIn = none
  · simp [SharedPort.write, hostWrite_of_running hr, ho, hother]
  · exact write_of_reset hr w

/-- What writing one word can do. -/
theorem write_cases (p : SharedPort) (host : HostAgent) (w : Word) :
    ((p.block.resetIn ≠ none ∨ (p.owed ≠ 0 ∧ p.writer ≠ some host)) ∧ p.write host w = none) ∨
    (¬ (p.block.resetIn ≠ none ∨ (p.owed ≠ 0 ∧ p.writer ≠ some host)) ∧
      ∃ owed, p.write host w = some ⟨p.block.appendWords [w], some host, owed⟩) := by
  by_cases hr : p.block.resetIn = none
  · by_cases ho : p.owed = 0
    · exact .inr ⟨by simp [hr, ho], _, write_header hr ho w⟩
    · by_cases hown : p.writer = some host
      · exact .inr ⟨by simp [hr, hown], _, write_payload hr ho hown w⟩
      · exact .inl ⟨.inr ⟨ho, hown⟩, write_of_other ho hown w⟩
  · exact .inl ⟨.inl hr, write_of_reset hr w⟩

/-! The words of a command -/

theorem writeWords_cons {q : SharedPort} {w : Word} (h : p.write host w = some q) (ws : List Word) :
    p.writeWords host (w :: ws) = q.writeWords host ws := by
  simp [SharedPort.writeWords, h]

/-- A host inside its own command writes words of it, as many as the command lacks or fewer. -/
theorem writeWords_payload (ws : List Word) (hr : p.block.resetIn = none) (hown : p.writer = some host)
    (hlen : ws.length ≤ p.owed) :
    p.writeWords host ws = some ⟨p.block.appendWords ws, some host, p.owed - ws.length⟩ := by
  induction ws generalizing p with
  | nil =>
    obtain ⟨block, writer, owed⟩ := p
    obtain rfl : writer = some host := hown
    simp [SharedPort.writeWords, State.appendWords]
  | cons w ws ih =>
    rw [List.length_cons] at hlen
    rw [writeWords_cons (write_payload hr (by omega) hown w), ih (by exact hr) rfl (by simp only; omega)]
    simp [appendWords_append, Nat.sub_sub, Nat.add_comm]

theorem wordsOwed_header (i : Instr) : wordsOwed (header i) = i.payloadLength := by
  simp [wordsOwed, decode_header]

/-- A host that starts outside a command writes its header and then words of its payload. -/
theorem writeWords_command (i : Instr) {ws : List Word} (hr : p.block.resetIn = none) (ho : p.owed = 0)
    (hlen : ws.length ≤ i.payloadLength) :
    p.writeWords host (header i :: ws) =
      some ⟨p.block.appendWords (header i :: ws), some host, i.payloadLength - ws.length⟩ := by
  rw [writeWords_cons (write_header hr ho _), writeWords_payload ws (by exact hr) rfl (by rwa [wordsOwed_header]),
    wordsOwed_header, appendWords_append]
  rfl

end Write

/-- Settles O56: the first words of a command leave its host inside it by what the payload still lacks, which is nothing
after the last word. -/
theorem hostsNeverSplitACommand : Obligations.HostsNeverSplitACommand := by
  unfold Obligations.HostsNeverSplitACommand
  refine ⟨fun p host w => ?_, fun p host h hr ho hwhole => ?_⟩
  · rcases write_cases p host w with ⟨hrefused, hw⟩ | ⟨haccepted, owed, hw⟩
    · rw [hw]
      exact ⟨iff_of_true rfl hrefused, nofun⟩
    · rw [hw]
      refine ⟨iff_of_false nofun haccepted, ?_⟩
      rintro q ⟨⟩
      exact ⟨rfl, rfl⟩
  · have hlen : h.payload.length = h.instr.payloadLength := by simpa [HostCommand.whole] using hwhole
    refine ⟨⟨_, writeWords_command h.instr hr ho hlen.le, by simp [hlen], rfl⟩, fun n hpos hlt => ?_⟩
    obtain ⟨k, rfl⟩ := Nat.exists_eq_succ_of_ne_zero hpos.ne'
    have hk : k < h.instr.payloadLength := by rw [words_length] at hlt; omega
    have htake : (h.payload.take k).length = k := by rw [List.length_take]; omega
    refine ⟨_, writeWords_command h.instr hr ho (by omega), fun other w hother => write_of_other ?_ ?_ w⟩
    · simp only [htake]; omega
    · simpa using hother.symm

end Sys2Proof.Machine
end
